-- ==== Sys2Proof/Word.lean ====
section
/-! DEFINITION. The word types of the IZ3160: a byte of the line, a cell of the array, a check value. -/

namespace Sys2Proof

/-- One byte of a frame or a payload. -/
abbrev Byte := BitVec 8

/-- One cell of the array, 16 bytes (R80); byte 0 is the most significant, as R181 stores fields. -/
abbrev CellWord := BitVec 128

/-- The 16-bit cyclic check value (R181). -/
abbrev Check := BitVec 16

/-- A cell as an erase leaves it: sixteen zero bytes (Conventions, "Blank"). -/
def blankCell : CellWord := 0

end Sys2Proof
end

