-- ==== Sys2Proof/Syntax.lean ====
section
/-! DEFINITION. Instr: the commands of the IZ3160, one constructor per row of spec/opcode_table.json.

A host request (STATUS to FORMAT) carries the TAG and the PAYLOAD of its frame as raw bytes, so every payload the
spec answers BAD_ARGS is an operand form too (R183, R184). Its KIND is the row itself; LEN and CHECK follow from the rest. -/

namespace Sys2Proof

/-- The outcome of a cell program or of a page erase (R83). -/
inductive ArrayOutcome where
  | ok
  | verifyFail
deriving DecidableEq, Repr

/-- One command: a request, an event on a pin or of the supply, or one of the block's own steps the table lists. -/
inductive Instr where
  /-- A character on RXD: its value, and whether its stop bit was high (R144, R145). -/
  | receiveCharacter (value : Byte) (stopHigh : Bool)
  | byteGapTimerExpiry
  | heldFrameTaken
  | status (tag : Byte) (payload : List Byte)
  | abandon (tag : Byte) (payload : List Byte)
  | ackNotice (tag : Byte) (payload : List Byte)
  | pollNotice (tag : Byte) (payload : List Byte)
  | restart (tag : Byte) (payload : List Byte)
  | read (tag : Byte) (payload : List Byte)
  | list (tag : Byte) (payload : List Byte)
  | wear (tag : Byte) (payload : List Byte)
  | getReport (tag : Byte) (payload : List Byte)
  | beginTxn (tag : Byte) (payload : List Byte)
  | stageWrite (tag : Byte) (payload : List Byte)
  | stageDelete (tag : Byte) (payload : List Byte)
  | stageTally (tag : Byte) (payload : List Byte)
  | commit (tag : Byte) (payload : List Byte)
  | commitWaitEnd
  | increment (tag : Byte) (payload : List Byte)
  | incrementWaitEnd
  | compact (tag : Byte) (payload : List Byte)
  | format (tag : Byte) (payload : List Byte)
  | frameSent
  | waitingProducerPlaces
  | idleTimerExpiry
  | arbiterGrant
  /-- The read in flight completes; the operand lists what the run's indeterminate cells read as this time, in
  cell order (R84, R85). A missing value is a free value (Config.indeterminateCell). -/
  | readComplete (indeterminate : List CellWord)
  /-- The cell program in flight completes with its outcome (R85). -/
  | programComplete (outcome : ArrayOutcome)
  | compactionWalkResume
  /-- The page erase in flight completes with its outcome (R86). -/
  | eraseComplete (outcome : ArrayOutcome)
  | supplyCaution
  | cautionTimerExpiry
  | vddAboveRecovery
  | vddAtOrBelowRecovery
  | recoveryTimerExpiry
  | brownout
  | powerOn
  | resetNFall
  | resetLine
  | resetNRise
  /-- The restart proceeds; the operand is the level of the RATE pin at its sampling (R144). -/
  | restartProceed (rateHigh : Bool)
deriving DecidableEq, Repr

end Sys2Proof
end

