-- ==== Sys2Proof/Decode.lean ====
section
/-! DEFINITION. The commands that a word spells by the bits of spec/opcode_table.json. No row of the table gives bits
("fields" is empty in every row and "fixed" is absent): the block is driven by characters, events and its own steps, so
a word spells no command. -/

namespace Sys2Proof

/-- The command that the bits w of a word of nbits bits spell: none, since no row of the table has bits. -/
def decodeTableWord (_nbits _w : Nat) : Option Instr := none

end Sys2Proof
end

