-- ==== Sys2Proof/Config.lean ====
section
/-! DEFINITION. The part's fixed limits, and the one free value of the model. -/

namespace Sys2Proof.Config

/-- What an indeterminate cell reads as when the completing read names no value for it (R85, R86, R87): a free
value, applied to State.freeIndex, which the read advances. Nothing constrains it. -/
opaque indeterminateCell : Nat → CellWord

/-- R8: the directory holds at most 512 entries. -/
abbrev directoryCapacity : Nat := 512
/-- R25: at most 16 staged operations. -/
abbrev stagingOperations : Nat := 16
/-- R25: at most 1,024 staged data bytes. -/
abbrev stagingBytes : Nat := 1024
/-- R151: the request queue holds at most 4 requests. -/
abbrev requestQueueCapacity : Nat := 4
/-- R154: the replay table holds at most 8 entries. -/
abbrev replayCapacity : Nat := 8
/-- R156: the transmit queue holds up to 6 frames. -/
abbrev transmitCapacity : Nat := 6
/-- R162: the notice queue holds up to 8 notices. -/
abbrev noticeCapacity : Nat := 8
/-- The largest value of a four-byte field: the highest generation (R6), value (R66), erase count (R82) and
sequence number (R94). -/
abbrev maxWord : Nat := 4294967295
/-- R6: a fold is made only at a directory generation of 4,294,967,293 or less. -/
abbrev maxFoldGeneration : Nat := 4294967293
/-- R2, R66: at most 32 current bumps. -/
abbrev maxBumps : Nat := 32
/-- R118, R136: with fewer usable pages than this the store is READ_ONLY. -/
abbrev minUsablePages : Nat := 6
/-- R147: the discarded-frame count saturates here. -/
abbrev maxDiscarded : Nat := 65535

end Sys2Proof.Config
end

