-- ==== Sys2Proof/Machine/State.lean ====
section
/-! DEFINITION. State: every piece of state the spec gives the IZ3160, block by block, as plain data; the reasons a step
could stop; and the state right after a power-on restart. The queue of waiting commands stands in State.pending. -/

namespace Sys2Proof.Machine

/-- A page index, 0 to 31 (R80). -/
abbrev PageIx := Fin 32

/-- Where an entry stands: its page and first cell (R8, "location"). -/
structure Loc where
  page : PageIx
  cell : Nat
deriving DecidableEq, Repr

/-- What a cell holds: sixteen known bytes, or content that R85 to R87 call indeterminate. -/
inductive CellContent where
  | word (w : CellWord)
  | indeterminate
deriving DecidableEq, Repr

/-- The array's cells: (cell address, content) pairs, addresses strictly rising, no entry equal to a blank cell. The
address of cell c of page p is 128 p + c. An unlisted address is a blank cell. -/
abbrev Memory := List (Nat × CellContent)

/-! ### The link controller -/

/-- The request kinds of R149. -/
inductive RequestKind where
  | status | abandon | ackNotice | pollNotice | restart
  | read | list | wear | getReport
  | beginTxn | stageWrite | stageDelete | stageTally | commit | increment | compact | format
deriving DecidableEq, Repr

/-- A frame's KIND, TAG and PAYLOAD; START, LEN and CHECK follow from them (R157). -/
structure Frame where
  kind : Byte
  tag : Byte
  payload : List Byte
deriving DecidableEq, Repr

/-- A queued request as the request queue holds it (R151). -/
structure Request where
  kind : RequestKind
  tag : Byte
  payload : List Byte
deriving DecidableEq, Repr

/-- The receiver's states (R145). -/
inductive RxState where
  | hunt | length | body | check
deriving DecidableEq, Repr

/-- A replay table entry (R153). -/
structure ReplayEntry where
  tag : Byte
  kind : RequestKind
  check : Check
  reply : List Byte
deriving DecidableEq, Repr

/-- The producers of the transmit queue (R156). -/
inductive Producer where
  | handler | executor | noticeUnit
deriving DecidableEq, Repr

/-- The link controller (R144 to R161). -/
structure Link where
  /-- the sampled RATE: true is 921,600 bit/s (R144) -/
  rateHigh : Bool
  rx : RxState
  /-- the partial frame, from LEN onward (R145) -/
  received : List Byte
  byteGapRunning : Bool
  /-- the good frame the receiver holds while the handler is busy (R148) -/
  held : Option Frame
  discarded : Nat
  /-- the reply with which the handler waits for a place (R148, R156) -/
  handlerReply : Option Frame
  queue : List Request
  /-- oldest first (R154) -/
  replay : List ReplayEntry
  /-- the frame being sent first (R156) -/
  transmit : List Frame
  /-- the frame being sent was cut off by a fall of RESET_N (R177) -/
  cutOff : Bool
  /-- the producers that wait for a place, in the order they began to wait; the notice unit stands once for each frame of its
  outgoing list (R156) -/
  waiters : List Producer
deriving DecidableEq, Repr

/-! ### Transactions -/

/-- R22. -/
inductive TxnState where
  | none | opened | committing
deriving DecidableEq, Repr

/-- A staged operation (R25). -/
inductive StagedOp where
  | write (ident : Nat) (data : List Byte)
  | delete (ident : Nat)
  | createTally (ident : Nat) (initial : Nat)
deriving DecidableEq, Repr

/-- The transaction context and the staging list (R22, R25). -/
structure Txn where
  state : TxnState
  number : Option Nat
  idleRunning : Bool
  nextNumber : Nat
  staging : List StagedOp
deriving DecidableEq, Repr

/-! ### The directory -/

/-- The location of a current bump together with its ordinal (R66, R110). -/
structure BumpLoc where
  ordinal : Nat
  loc : Loc
deriving DecidableEq, Repr

/-- The fields a directory entry holds by its kind (R8). The bump count is the length of the bump locations (R66). -/
inductive DirBody where
  | blob (length : Nat)
  | tally (value : Nat) (bumps : List BumpLoc)
  | tombstone
deriving DecidableEq, Repr

/-- A directory entry (R8). -/
structure DirEntry where
  ident : Nat
  gen : Nat
  loc : Loc
  stale : Nat
  body : DirBody
deriving DecidableEq, Repr

/-- A pair of the carry list: the page and the transaction number (R104). -/
structure CarryPair where
  page : PageIx
  txn : Nat
deriving DecidableEq, Repr

/-! ### Entries of the array -/

/-- An array entry's fields (R185). flags is byte 1: bit 0 SELF, bit 1 FOLD. -/
inductive Entry where
  | blob (flags : Byte) (ident txn gen length : Nat)
  | tallyBase (flags : Byte) (ident txn gen value : Nat)
  | tombstone (flags : Byte) (ident txn gen : Nat)
  | bump (ordinal ident delta gen : Nat)
  | marker (txn count : Nat)
  | release (victim : Nat) (sequence : Nat)
  | formatMark
deriving DecidableEq, Repr

/-- A run of cells reserved in a page, the words to program into it, and how many of them have completed OK (R89). -/
structure Run where
  page : PageIx
  first : Nat
  words : List CellWord
  done : Nat
deriving DecidableEq, Repr

/-! ### The executor's work -/

/-- R43. -/
inductive CommitStage where
  | waiting | programming | marking
deriving DecidableEq, Repr

/-- An entry of a commit as composed at its first grant: its generation and its words (R50). -/
structure Composed where
  gen : Nat
  words : List CellWord
deriving DecidableEq, Repr

/-- What the commit record holds for one staged operation (R43). -/
structure CommitItem where
  composed : Option Composed
  final : Option Loc
  /-- the page of the final location has not been erased since -/
  finalStands : Bool
  /-- VERIFY_FAIL endings of this operation's entry (R51) -/
  failures : Nat
deriving DecidableEq, Repr

/-- The commit record (R43), with what R49 to R58 imply. -/
structure CommitRecord where
  stage : CommitStage
  /-- the victim waited for has left state VICTIM (R45) -/
  waitOver : Bool
  commitPage : Option PageIx
  /-- the staging position now placed; the number of operations stands for MARKER -/
  position : Nat
  items : List CommitItem
  /-- VERIFY_FAIL endings of the marker -/
  markerFailures : Nat
  markerGranted : Bool
  /-- a program of the commit has been granted (R7, R50) -/
  granted : Bool
  /-- a cell of an entry or of the marker has been programmed (R49) -/
  programmed : Bool
  /-- positions still to be relocated, in staging order (R52) -/
  relocate : List Nat
  /-- the relocated copies left behind: identifier and location (R52) -/
  copies : List (Nat × Loc)
  run : Option Run
deriving DecidableEq, Repr

/-- An increment's entry as composed at its grant (R69). -/
structure IncrementEntry where
  isFold : Bool
  gen : Nat
  ordinal : Nat
  /-- the tally's value when this entry completes -/
  value : Nat
  saturated : Bool
  words : List CellWord
deriving DecidableEq, Repr

/-- The executing increment (R68 to R74). -/
structure IncrementRecord where
  ident : Nat
  delta : Nat
  /-- the cells its admission counts (R70) -/
  need : Nat
  waiting : Bool
  waitOver : Bool
  composed : Option IncrementEntry
  failures : Nat
  run : Option Run
deriving DecidableEq, Repr

/-- The store states (R123, R136). -/
inductive StoreState where
  | mounting | formatting | ready | readOnly
deriving DecidableEq, Repr

/-- Where a FORMAT stands (R140 to R142). -/
inductive FormatStage where
  | marking
  | fallbackErase (page : PageIx)
  | erasing (page : PageIx)
  | closing
deriving DecidableEq, Repr

/-- The executing FORMAT (R139 to R142). -/
structure FormatRecord where
  /-- the store state when it was taken (R140) -/
  previous : StoreState
  stage : FormatStage
  /-- pages erased with OK in this FORMAT, in order -/
  erased : List PageIx
  /-- a fallback page erased and not yet opened (R140) -/
  fallback : Option PageIx
  mark : Option PageIx
  /-- the mark's own page has had its erase (R141) -/
  markErased : Bool
  /-- the erase in progress is the second of its page -/
  retried : Bool
  failures : Nat
  run : Option Run
deriving DecidableEq, Repr

/-- The request executor: the executing request, the reply with which it waits for a place (R151), and the record of
the work in progress. -/
structure Executor where
  executing : Option Request
  reply : Option Frame
  /-- the identifier of the BLOB a READ is reading (R19) -/
  blobRead : Option Nat
  commit : Option CommitRecord
  increment : Option IncrementRecord
  format : Option FormatRecord
deriving DecidableEq, Repr

/-! ### The array controller -/

/-- R90; PENDING_ERASE during mount only (R88). -/
inductive PageState where
  | erased | opened | sealed | victim | retired | pendingErase
deriving DecidableEq, Repr

/-- A page table record (R88). -/
structure PageRec where
  state : PageState
  eraseCount : Nat
  sequence : Option Nat
  used : Nat
  live : Nat
deriving DecidableEq, Repr

/-- A run of the faulted-run lists (R103). -/
structure FaultedRun where
  page : PageIx
  first : Nat
  count : Nat
deriving DecidableEq, Repr

/-- The requesters of the array arbiter (R96). -/
inductive Requester where
  | executor | compaction | mount
deriving DecidableEq, Repr

/-- What a waiting request asks for (R96). -/
inductive RequestOp where
  | read | program | erase
deriving DecidableEq, Repr

/-- A granted array operation (R83); openHeader is the program of a page switch (R91). -/
inductive ArrayOp where
  | read (page : PageIx) (first count : Nat)
  | program (page : PageIx) (cell : Nat) (word : CellWord)
  | openHeader (page : PageIx) (word : CellWord)
  | erase (page : PageIx) (count : Nat)
deriving DecidableEq, Repr

/-- The operation in flight and the requester it hands its outcome to; none when that work has ended since. -/
structure Flight where
  owner : Option Requester
  op : ArrayOp
deriving DecidableEq, Repr

/-- The array, the page table and the arbiter (R80 to R103). -/
structure ArrayState where
  cells : Memory
  table : Vector PageRec 32
  /-- held for the OPEN page alone (R88) -/
  appendPoint : Option Nat
  /-- none when exhausted (R94) -/
  nextSequence : Option Nat
  faulted : List FaultedRun
  inFlight : Option Flight
  executorRequest : Option RequestOp
  compactionRequest : Option RequestOp
  mountRequest : Option RequestOp
deriving DecidableEq, Repr

/-! ### The compaction engine -/

/-- R102. -/
inductive Phase where
  | idle | select | copy | release | erase
deriving DecidableEq, Repr

/-- A survey record (R109). -/
structure SurveyRec where
  first : Nat
  entry : Entry
  committed : Bool
deriving DecidableEq, Repr

/-- A fold as composed at its grant (R77). -/
structure FoldEntry where
  gen : Nat
  value : Nat
  words : List CellWord
deriving DecidableEq, Repr

/-- What the engine's present array work is. -/
inductive Action where
  | none
  /-- SELECT: an open header is requested to seal the OPEN page (R108) -/
  | seal
  | survey
  /-- the read that begins a copy (R111) -/
  | readCopy
  /-- the copy's words, and whether its first cell has been granted -/
  | copy (words : List CellWord) (granted : Bool)
  /-- a fold; none until composed at its grant -/
  | fold (composed : Option FoldEntry)
  /-- the wait of R7 -/
  | awaitCommit
  | release
  /-- the victim's erase; true for the second one (R118) -/
  | erase (second : Bool)
deriving DecidableEq, Repr

/-- The compaction engine (R102). -/
structure Compaction where
  phase : Phase
  victim : Option PageIx
  survey : List SurveyRec
  /-- the next survey position; none is END -/
  walk : Option Nat
  victimCounts : List (Nat × Nat)
  folded : List Nat
  drops : List (Nat × Loc)
  spend : Nat
  failures : Nat
  runVictims : Nat
  runReclaimed : Nat
  hostDemand : Nat
  automaticDemand : Bool
  action : Action
  run : Option Run
  /-- the victim's cells read so far by the survey, from cell 2 -/
  surveyed : List CellWord
  /-- the walk ends when the operation in flight completes (R120) -/
  stopping : Bool
deriving DecidableEq, Repr

/-! ### The mount unit -/

/-- The classes of R124. -/
inductive PageClass where
  | pendingErase | erased | holdsEntries
deriving DecidableEq, Repr

/-- What READ found on one page (R124, R125). -/
structure PageScan where
  page : PageIx
  wear : Option Nat
  sequence : Option Nat
  cls : PageClass
  extent : Nat
  entries : List (Nat × Entry)
deriving DecidableEq, Repr

/-- What RESOLVE settles for SETTLE (R126 to R134). -/
structure MountResult where
  directory : List DirEntry
  carry : List CarryPair
  nextSequence : Option Nat
  nextNumber : Nat
  torn : Nat
  lastCommitted : Nat
  formatMark : Bool
  truncated : Bool
deriving DecidableEq, Repr

/-- The mount unit's working records (R123). -/
structure MountRecord where
  /-- the closing mount of a FORMAT, with the pages it erased with OK (R142) -/
  closing : Option (List PageIx)
  /-- the next of the 256 reads; 256 when READ has ended -/
  readIndex : Nat
  /-- the cells read so far of the page being read -/
  pageWords : List CellWord
  scans : List PageScan
  result : Option MountResult
  /-- the pages still to be erased, in the order of R133 -/
  toErase : List PageIx
  retried : Bool
  eraseCount : Nat
  erasedCount : Nat
  retiredCount : Nat
deriving DecidableEq, Repr

/-! ### Notices and the start-up report -/

/-- R176, R177. -/
inductive Cause where
  | powerOn | brownout | resetLine | restartRequest
deriving DecidableEq, Repr

/-- The mount summary (R137). -/
structure Summary where
  store : StoreState
  erasedPages : Nat
  openPages : Nat
  sealedPages : Nat
  retiredPages : Nat
  pagesErased : Nat
  pagesRetired : Nat
  torn : Nat
  lastCommitted : Nat
  liveRecords : Nat
  tombstones : Nat
  formatMark : Bool
  truncated : Bool
deriving DecidableEq, Repr

/-- The start-up report record (R170). -/
structure Report where
  cause : Cause
  earlier : List Cause
  summary : Summary
deriving DecidableEq, Repr

/-- R168. -/
inductive MediaEvent where
  | programRetriesExhausted | pageRetired
deriving DecidableEq, Repr

/-- R168. -/
inductive SupplyEvent where
  | cautionLongBegin | normalAgain
deriving DecidableEq, Repr

/-- A notice's kind and content (R168). -/
inductive NoticeContent where
  | start (report : Report)
  | compacted (victims reclaimed erased : Nat)
  | spaceLow (erased : Nat)
  | media (page : PageIx) (event : MediaEvent)
  | txnExpired (number : Nat)
  | supply (event : SupplyEvent)
deriving DecidableEq, Repr

/-- A queued notice (R162). -/
structure Notice where
  number : Nat
  lost : Nat
  content : NoticeContent
deriving DecidableEq, Repr

/-- The notice unit (R162). -/
structure NoticeUnit where
  queue : List Notice
  nextNumber : Nat
  outgoing : List Frame
  /-- CAUTION_LONG_BEGIN held back during a mount (R169) -/
  deferred : Bool
  report : Report
  startAcknowledged : Bool
  earlierCauses : List Cause
  currentCause : Cause
deriving DecidableEq, Repr

/-! ### Supply and restart -/

/-- R173. -/
inductive SupplyState where
  | normal | caution | cautionLong
deriving DecidableEq, Repr

/-- The supply supervisor (R173, R174) and the level of RESET_N. -/
structure Supply where
  state : SupplyState
  cautionRunning : Bool
  recoveryRunning : Bool
  /-- VDD stands above 2.80 V, as the last event said -/
  vddAbove : Bool
  /-- while restarting: VDD has been above 2.80 V for 1 ms without a fall since (R178) -/
  vddGood : Bool
  resetNHigh : Bool
deriving DecidableEq, Repr

/-- The restart in progress, from its cause to the event in which it proceeds (R178, R179). -/
structure Restarting where
  cause : Cause
  cold : Bool
  /-- RESET_N must be high before the restart proceeds (R178) -/
  needsResetHigh : Bool
deriving DecidableEq, Repr

/-! ### The whole machine -/

/-- The state of the IZ3160, and the queue of the commands that wait for it. -/
structure State where
  pending : List Instr
  link : Link
  executor : Executor
  txn : Txn
  directory : List DirEntry
  carry : List CarryPair
  array : ArrayState
  compaction : Compaction
  store : StoreState
  mount : Option MountRecord
  notices : NoticeUnit
  supply : Supply
  restarting : Option Restarting
  /-- the model's own: the index of the next free value of Config.indeterminateCell -/
  freeIndex : Nat
deriving DecidableEq, Repr

/-- The reasons a step stops with a fault. The spec gives every command an effect in every state, so nothing raises
one; the type has no constructor. -/
inductive Fault where
deriving DecidableEq, Repr

/-- The reasons a step is refused. -/
inductive Refusal where
  /-- Raised by an arm of exec that has no meaning yet; safe, since nothing is proved of a run through it. -/
  | notModelled (mnemonic : String)
deriving DecidableEq, Repr

/-! ### The values after reset -/

/-- The link controller after a restart (R161). -/
def Link.restarted (rateHigh : Bool) : Link :=
  { rateHigh, rx := .hunt, received := [], byteGapRunning := false, held := none, discarded := 0, handlerReply := none,
    queue := [], replay := [], transmit := [], cutOff := false, waiters := [] }

/-- The executor with no request executing (R161). -/
def Executor.free : Executor :=
  { executing := none, reply := none, blobRead := none, commit := none, increment := none, format := none }

/-- The transaction context after a restart (R42); the next number is set by mount, and stands at 1 until then. -/
def Txn.restarted : Txn :=
  { state := .none, number := none, idleRunning := false, nextNumber := 1, staging := [] }

/-- A page table record before the mount has classified its page. -/
def PageRec.unclassified : PageRec :=
  { state := .pendingErase, eraseCount := 0, sequence := none, used := 2, live := 0 }

/-- The array controller at the start of a mount (R101), over the cells as they stand; the mount unit's first read is
requested (R123). -/
def ArrayState.restarted (cells : Memory) : ArrayState :=
  { cells, table := Vector.replicate 32 PageRec.unclassified, appendPoint := none, nextSequence := some 1, faulted := [],
    inFlight := none, executorRequest := none, compactionRequest := none, mountRequest := some .read }

/-- The compaction engine after a restart (R102). -/
def Compaction.idle : Compaction :=
  { phase := .idle, victim := none, survey := [], walk := none, victimCounts := [], folded := [], drops := [], spend := 0,
    failures := 0, runVictims := 0, runReclaimed := 0, hostDemand := 0, automaticDemand := false, action := .none,
    run := none, surveyed := [], stopping := false }

/-- A mount at its first read (R123); closing holds the pages a FORMAT erased (R142). -/
def MountRecord.start (closing : Option (List PageIx)) : MountRecord :=
  { closing, readIndex := 0, pageWords := [], scans := [], result := none, toErase := [], retried := false, eraseCount := 0,
    erasedCount := 0, retiredCount := 0 }

/-- A summary no mount has filled in. -/
def Summary.unbuilt : Summary :=
  { store := .mounting, erasedPages := 0, openPages := 0, sealedPages := 0, retiredPages := 0, pagesErased := 0,
    pagesRetired := 0, torn := 0, lastCommitted := 0, liveRecords := 0, tombstones := 0, formatMark := false,
    truncated := false }

/-- A report record no mount has built; no request sees it (R170). -/
def Report.unbuilt : Report := { cause := .powerOn, earlier := [], summary := Summary.unbuilt }

/-- The notice unit after a restart (R162, R172). -/
def NoticeUnit.restarted (report : Report) (earlierCauses : List Cause) (currentCause : Cause) : NoticeUnit :=
  { queue := [], nextNumber := 1, outgoing := [], deferred := false, report, startAcknowledged := false, earlierCauses,
    currentCause }

/-- The supervisor when a restart proceeds (R180): NORMAL, both timers stopped. -/
def Supply.restarted (vddAbove resetNHigh : Bool) : Supply :=
  { state := .normal, cautionRunning := false, recoveryRunning := false, vddAbove, vddGood := false, resetNHigh }

/-- The machine right after a power-on restart has proceeded (R180): the mount begins over an array nothing has
written, RATE low and RESET_N high. -/
def State.reset : State :=
  { pending := [], link := Link.restarted false, executor := Executor.free, txn := Txn.restarted, directory := [],
    carry := [], array := ArrayState.restarted [], compaction := Compaction.idle, store := .mounting,
    mount := some (MountRecord.start none), notices := NoticeUnit.restarted Report.unbuilt [] .powerOn,
    supply := Supply.restarted true true, restarting := none, freeIndex := 0 }

end Sys2Proof.Machine
end

