-- ==== Sys2Proof/Machine/Entries.lean ====
section
/-! DEFINITION. Formats: numeric fields, the check value, request and reply codes, header cells and array entries
(R181, R182, R185 to R188). -/

namespace Sys2Proof.Machine

/-! ### Bytes and the check value (R181) -/

/-- The n bytes of a number, most significant first. -/
def beBytes : Nat → Nat → List Byte
  | 0, _ => []
  | n + 1, v => beBytes n (v / 256) ++ [BitVec.ofNat 8 v]

/-- The number whose bytes, most significant first, are bs. -/
def beNat (bs : List Byte) : Nat := bs.foldl (fun acc b => acc * 256 + b.toNat) 0

/-- A flag byte: 0 for clear, 1 for set. -/
def flagByte (b : Bool) : Byte := if b then 1 else 0

/-- One bit into the check register: generator x^16 + x^12 + x^5 + 1. -/
def checkBit (reg : Check) (bit : Bool) : Check :=
  if reg.msb ^^ bit then (reg <<< 1) ^^^ 0x1021#16 else reg <<< 1

/-- One byte into the check register, most significant bit first. -/
def checkByte (reg : Check) (b : Byte) : Check :=
  (List.range 8).foldl (fun r k => checkBit r (b.getMsbD k)) reg

/-- The check value of a run of bytes: the register starts at 0xFFFF, with no inversion at the end. -/
def checkValue (bs : List Byte) : Check := bs.foldl checkByte 0xFFFF#16

/-- The check value as its two bytes. -/
def checkBytes (c : Check) : List Byte := [c.extractLsb' 8 8, c.extractLsb' 0 8]

/-! ### Cells as bytes -/

/-- Byte k of a cell, k from 0 to 15. -/
def cellByte (w : CellWord) (k : Nat) : Byte := w.extractLsb' (8 * (15 - k)) 8

/-- The sixteen bytes of a cell, in order. -/
def cellBytes (w : CellWord) : List Byte := (List.range 16).map (cellByte w)

/-- The cell that holds the first sixteen of bs, the missing ones 0. -/
def cellOfBytes (bs : List Byte) : CellWord :=
  (List.range 16).foldl (fun acc k => (acc <<< 8) ||| (bs.getD k 0).setWidth 128) 0

/-- The number in bytes first to first + count - 1 of a cell. -/
def cellField (w : CellWord) (first count : Nat) : Nat :=
  (w.extractLsb' (8 * (16 - first - count)) (8 * count)).toNat

/-- A first cell by its byte offsets, its check field zero (R185). -/
def headerCell (code b1 : Byte) (b2to3 : BitVec 16) (b4to7 b8to11 : BitVec 32) (b12 b13 : Byte) : CellWord :=
  code ++ b1 ++ b2to3 ++ b4to7 ++ b8to11 ++ b12 ++ b13 ++ (0 : BitVec 16)

/-- The words of an entry with the check field of the first cell taken as zero. -/
def clearCheck : List CellWord → List CellWord
  | [] => []
  | w :: rest => ((w >>> 16) <<< 16) :: rest

/-- The check value an entry's words call for (R187). -/
def entryCheck (words : List CellWord) : Check := checkValue ((clearCheck words).flatMap cellBytes)

/-- The words with their check field set (R187). -/
def setCheck (words : List CellWord) : List CellWord :=
  match clearCheck words with
  | [] => []
  | w :: rest => (w ||| (entryCheck words).setWidth 128) :: rest

/-- The check field of an entry's first cell agrees with its content (R187). -/
def checkMatches (words : List CellWord) : Bool :=
  match words with
  | [] => false
  | w :: _ => w.extractLsb' 0 16 == entryCheck words

/-! ### Header cells (R81, R82, R185, R186) -/

/-- A wear header with its erase count. -/
def wearHeader (count : Nat) : CellWord :=
  (setCheck [headerCell 0xE1 0 0 (BitVec.ofNat 32 count) 0 0 0]).headD blankCell

/-- An open header with its sequence number. -/
def openHeader (sequence : Nat) : CellWord :=
  (setCheck [headerCell 0xE2 0 0 (BitVec.ofNat 32 sequence) 0 0 0]).headD blankCell

/-- The number a valid header of that code holds in bytes 4 to 7; none when the cell is not a valid header. -/
def headerValue (code : Byte) (w : CellWord) : Option Nat :=
  if cellByte w 0 == code && checkMatches [w] then some (cellField w 4 4) else none

/-- The erase count of a valid wear header. -/
def wearCount (w : CellWord) : Option Nat := headerValue 0xE1 w

/-- The sequence number of a valid open header. -/
def openSequence (w : CellWord) : Option Nat := headerValue 0xE2 w

/-! ### Entries (R185, R187, R188) -/

/-- The cells of a BLOB of that many data bytes: 1 + ceil(length / 16). -/
def blobCells (length : Nat) : Nat := 1 + (length + 15) / 16

/-- The cell count of an entry. -/
def entryCells : Entry → Nat
  | .blob _ _ _ _ length => blobCells length
  | .tallyBase .. => 2
  | .tombstone .. => 1
  | .bump .. => 1
  | .marker .. => 1
  | .release .. => 1
  | .formatMark => 1

/-- SELF: bit 0 of the flags. -/
def selfFlag (flags : Byte) : Bool := flags.getLsbD 0

/-- The flags of a fold: SELF and FOLD (R188). -/
def foldFlags : Byte := 3

/-- The data cells of a BLOB: its bytes in order, the last cell filled up with zeros. -/
def dataCells (data : List Byte) : List CellWord :=
  (List.range ((data.length + 15) / 16)).map (fun k => cellOfBytes (data.drop (16 * k)))

/-- The first cell of an entry, its check field zero. -/
def entryHeader : Entry → CellWord
  | .blob flags ident txn gen length =>
      headerCell 0x01 flags (BitVec.ofNat 16 ident) (BitVec.ofNat 32 txn) (BitVec.ofNat 32 gen) (BitVec.ofNat 8 length)
        (BitVec.ofNat 8 (blobCells length))
  | .tallyBase flags ident txn gen _ =>
      headerCell 0x02 flags (BitVec.ofNat 16 ident) (BitVec.ofNat 32 txn) (BitVec.ofNat 32 gen) 0 2
  | .tombstone flags ident txn gen =>
      headerCell 0x03 flags (BitVec.ofNat 16 ident) (BitVec.ofNat 32 txn) (BitVec.ofNat 32 gen) 0 1
  | .bump ordinal ident delta gen =>
      headerCell 0x04 (BitVec.ofNat 8 ordinal) (BitVec.ofNat 16 ident) (BitVec.ofNat 16 delta ++ (0 : BitVec 16))
        (BitVec.ofNat 32 gen) 0 1
  | .marker txn count => headerCell 0x05 0 0 (BitVec.ofNat 32 txn) 0 (BitVec.ofNat 8 count) 1
  | .release victim sequence =>
      headerCell 0x06 (BitVec.ofNat 8 victim) 0 (BitVec.ofNat 32 sequence) 0 0 1
  | .formatMark => headerCell 0x07 0 0 0 0 0 1

/-- The words of an entry as the device composes it; data is a BLOB's content (R188). -/
def entryWords (e : Entry) (data : List Byte) : List CellWord :=
  match e with
  | .blob .. => setCheck (entryHeader e :: dataCells data)
  | .tallyBase _ _ _ _ value => setCheck [entryHeader e, (BitVec.ofNat 32 value ++ (0 : BitVec 96) : CellWord)]
  | .tombstone .. => setCheck [entryHeader e]
  | .bump .. => setCheck [entryHeader e]
  | .marker .. => setCheck [entryHeader e]
  | .release .. => setCheck [entryHeader e]
  | .formatMark => setCheck [entryHeader e]

/-- The words of a compaction copy: as read, with SELF set and the check computed anew (R111, R188). -/
def copyWords (words : List CellWord) : List CellWord :=
  match words with
  | [] => []
  | w :: rest => setCheck ((w ||| (1#128 <<< 112)) :: rest)

/-- An identifier in its range. -/
def identInRange (ident : Nat) : Bool := decide (1 ≤ ident ∧ ident ≤ 4094)

/-- An entry whose header cell starts the list, as the fields of its first cell read; the second cell gives a
TALLY_BASE its value. The cell count field is checked here, the other ranges by entryInRange. -/
def entryFields (words : List CellWord) : Option Entry :=
  let w := words.headD blankCell
  let flags := cellByte w 1
  let ident := cellField w 2 2
  let number := cellField w 4 4
  let gen := cellField w 8 4
  let b12 := cellField w 12 1
  let count := cellField w 13 1
  match cellField w 0 1 with
  | 1 => if count = blobCells b12 then some (.blob flags ident number gen b12) else none
  | 2 => if count = 2 then some (.tallyBase flags ident number gen (cellField (words.getD 1 blankCell) 0 4)) else none
  | 3 => if count = 1 then some (.tombstone flags ident number gen) else none
  | 4 => if count = 1 then some (.bump flags.toNat ident (cellField w 4 2) gen) else none
  | 5 => if count = 1 then some (.marker number b12) else none
  | 6 => if count = 1 then some (.release flags.toNat number) else none
  | 7 => if count = 1 then some .formatMark else none
  | _ => none

/-- The ranges R125 and R187 judge. -/
def entryInRange : Entry → Bool
  | .blob _ ident _ gen length => identInRange ident && decide (1 ≤ gen) && decide (length ≤ 240)
  | .tallyBase _ ident _ gen _ => identInRange ident && decide (1 ≤ gen)
  | .tombstone _ ident _ gen => identInRange ident && decide (1 ≤ gen)
  | .bump ordinal ident delta gen =>
      identInRange ident && decide (1 ≤ gen) && decide (1 ≤ ordinal ∧ ordinal ≤ 32) && decide (1 ≤ delta)
  | .marker .. => true
  | .release victim _ => decide (victim ≤ 31)
  | .formatMark => true

/-- The valid entry that starts at the head of words, the words running to the end of the page (R125, R187). Content alone
decides, also where the last cells of an entry were never programmed and the entry holds zeros there (log entry 38). -/
def judgeEntry (words : List CellWord) : Option Entry :=
  match entryFields words with
  | none => none
  | some e =>
    if entryInRange e && decide (entryCells e ≤ words.length) && checkMatches (words.take (entryCells e)) then some e
    else none

/-- The valid entries of a run of cells from cell number `cell` on, in cell order. skip counts the cells of the entry
judged last; a cell for which `barred` holds lies in a faulted run and belongs to no entry (R103, R109, R125). -/
def judgeCells (barred : Nat → Bool) : List CellWord → Nat → Nat → List (Nat × Entry)
  | [], _, _ => []
  | w :: rest, cell, skip =>
    match skip with
    | k + 1 => judgeCells barred rest (cell + 1) k
    | 0 =>
      match judgeEntry (w :: rest) with
      | some e =>
        if (List.range (entryCells e)).any (fun k => barred (cell + k)) then judgeCells barred rest (cell + 1) 0
        else (cell, e) :: judgeCells barred rest (cell + 1) (entryCells e - 1)
      | none => judgeCells barred rest (cell + 1) 0

/-- The identifier, transaction number and SELF flag of a BLOB, TALLY_BASE or TOMBSTONE. -/
def versionOf : Entry → Option (Nat × Nat × Bool)
  | .blob flags ident txn _ _ => some (ident, txn, selfFlag flags)
  | .tallyBase flags ident txn _ _ => some (ident, txn, selfFlag flags)
  | .tombstone flags ident txn _ => some (ident, txn, selfFlag flags)
  | .bump .. => none
  | .marker .. => none
  | .release .. => none
  | .formatMark => none

/-- The identifier of an entry that belongs to a record (R1). -/
def entryIdent : Entry → Option Nat
  | .blob _ ident _ _ _ => some ident
  | .tallyBase _ ident _ _ _ => some ident
  | .tombstone _ ident _ _ => some ident
  | .bump _ ident _ _ => some ident
  | .marker .. => none
  | .release .. => none
  | .formatMark => none

/-- The generation of an entry, 0 where it has none. -/
def entryGen : Entry → Nat
  | .blob _ _ _ gen _ => gen
  | .tallyBase _ _ _ gen _ => gen
  | .tombstone _ _ _ gen => gen
  | .bump _ _ _ gen => gen
  | .marker .. => 0
  | .release .. => 0
  | .formatMark => 0

/-! ### Codes (R181's tables) -/

/-- The request codes. -/
def requestCode : RequestKind → Byte
  | .status => 0x01 | .abandon => 0x02 | .ackNotice => 0x03 | .pollNotice => 0x04 | .restart => 0x05
  | .read => 0x10 | .list => 0x11 | .wear => 0x12 | .getReport => 0x13
  | .beginTxn => 0x20 | .stageWrite => 0x21 | .stageDelete => 0x22 | .stageTally => 0x23
  | .commit => 0x24 | .increment => 0x25 | .compact => 0x26 | .format => 0x27

/-- Every request kind. -/
def requestKinds : List RequestKind :=
  [.status, .abandon, .ackNotice, .pollNotice, .restart, .read, .list, .wear, .getReport, .beginTxn, .stageWrite,
   .stageDelete, .stageTally, .commit, .increment, .compact, .format]

/-- The request kind of a KIND byte; none is unknown (R149). -/
def requestKindOf (code : Byte) : Option RequestKind := requestKinds.find? (fun k => requestCode k == code)

/-- The mutating kinds (R149, R153). -/
def isMutating : RequestKind → Bool
  | .status => false | .abandon => false | .ackNotice => false | .pollNotice => false | .restart => false
  | .read => false | .list => false | .wear => false | .getReport => false
  | .beginTxn => true | .stageWrite => true | .stageDelete => true | .stageTally => true
  | .commit => true | .increment => true | .compact => true | .format => true

/-- The immediate kinds (R149). -/
def isImmediate : RequestKind → Bool
  | .status => true | .abandon => true | .ackNotice => true | .pollNotice => true | .restart => true
  | .read => false | .list => false | .wear => false | .getReport => false
  | .beginTxn => false | .stageWrite => false | .stageDelete => false | .stageTally => false
  | .commit => false | .increment => false | .compact => false | .format => false

/-- The result codes. -/
inductive Result where
  | ok | busy | dupTag | unknownKind | badArgs | notReady | readOnly | notFound | wrongKind | noTxn | txnOpen | wrongTxn
  | stageFull | storeFull | directoryFull | mediaFault | supplyLow | abandoned | tooLate | saturated | limit | empty
  | noNotice
deriving DecidableEq, Repr

/-- The byte of a result code. -/
def resultCode : Result → Byte
  | .ok => 0x00 | .busy => 0x01 | .dupTag => 0x02 | .unknownKind => 0x03 | .badArgs => 0x04 | .notReady => 0x05
  | .readOnly => 0x06 | .notFound => 0x10 | .wrongKind => 0x11 | .noTxn => 0x20 | .txnOpen => 0x21 | .wrongTxn => 0x22
  | .stageFull => 0x23 | .storeFull => 0x30 | .directoryFull => 0x31 | .mediaFault => 0x32 | .supplyLow => 0x33
  | .abandoned => 0x40 | .tooLate => 0x41 | .saturated => 0x50 | .limit => 0x51 | .empty => 0x60 | .noNotice => 0x61

def storeStateCode : StoreState → Byte
  | .mounting => 0 | .formatting => 1 | .ready => 2 | .readOnly => 3

def txnStateCode : TxnState → Byte
  | .none => 0 | .opened => 1 | .committing => 2

/-- PENDING_ERASE has no code: no request reports it (R88). -/
def pageStateCode : PageState → Byte
  | .erased => 0 | .opened => 1 | .sealed => 2 | .victim => 3 | .retired => 4 | .pendingErase => 0

def phaseCode : Phase → Byte
  | .idle => 0 | .select => 1 | .copy => 2 | .release => 3 | .erase => 4

def supplyStateCode : SupplyState → Byte
  | .normal => 0 | .caution => 1 | .cautionLong => 2

def causeCode : Cause → Byte
  | .powerOn => 1 | .brownout => 2 | .resetLine => 3 | .restartRequest => 4

def mediaEventCode : MediaEvent → Byte
  | .programRetriesExhausted => 1 | .pageRetired => 2

def supplyEventCode : SupplyEvent → Byte
  | .cautionLongBegin => 1 | .normalAgain => 2

/-- The record kind codes. -/
def bodyCode : DirBody → Byte
  | .blob _ => 1 | .tally _ _ => 2 | .tombstone => 3

/-! ### Frames (R157, R182) -/

/-- LEN of a frame: KIND, TAG and PAYLOAD. -/
def frameLen (payload : List Byte) : Byte := BitVec.ofNat 8 (payload.length + 2)

/-- CHECK of a frame: over LEN, KIND, TAG and PAYLOAD. -/
def frameCheck (kind tag : Byte) (payload : List Byte) : Check :=
  checkValue (frameLen payload :: kind :: tag :: payload)

/-- The characters of a frame on the line, from START to the second check byte. -/
def frameBytes (f : Frame) : List Byte :=
  0xB7 :: frameLen f.payload :: f.kind :: f.tag :: f.payload ++ checkBytes (frameCheck f.kind f.tag f.payload)

/-- The reply frame to a request of that KIND: KIND plus 0x80 modulo 256, the same TAG. -/
def replyFrame (kind tag : Byte) (payload : List Byte) : Frame := { kind := kind + 0x80, tag, payload }

/-- The payload of a reply that carries its result code alone. -/
def bare (r : Result) : List Byte := [resultCode r]

/-- The notice codes. -/
def noticeCode : NoticeContent → Byte
  | .start _ => 0x60 | .compacted .. => 0x61 | .spaceLow _ => 0x62 | .media .. => 0x63 | .txnExpired _ => 0x64
  | .supply _ => 0x65

/-- The report record, 24 bytes (11.5). -/
def reportBytes (r : Report) : List Byte :=
  let m := r.summary
  [causeCode r.cause] ++ beBytes 1 r.earlier.length
    ++ (List.range 4).map (fun k => match r.earlier[k]? with | some c => causeCode c | none => 0)
    ++ [storeStateCode m.store]
    ++ beBytes 1 m.erasedPages ++ beBytes 1 m.openPages ++ beBytes 1 m.sealedPages ++ beBytes 1 m.retiredPages
    ++ beBytes 1 m.pagesErased ++ beBytes 1 m.pagesRetired ++ beBytes 2 m.torn ++ beBytes 4 m.lastCommitted
    ++ beBytes 2 m.liveRecords ++ beBytes 2 m.tombstones
    ++ [flagByte m.formatMark ||| (flagByte m.truncated <<< 1)]

/-- The content bytes of a notice (11.5). -/
def noticeBytes : NoticeContent → List Byte
  | .start report => reportBytes report
  | .compacted victims reclaimed erased => beBytes 1 victims ++ beBytes 2 reclaimed ++ beBytes 1 erased
  | .spaceLow erased => beBytes 1 erased
  | .media page event => beBytes 1 page.val ++ [mediaEventCode event]
  | .txnExpired number => beBytes 4 number
  | .supply event => [supplyEventCode event]

/-- The frame of a notice: its code as KIND, its number as TAG, the lost count and the content (R165, R182). -/
def noticeFrame (n : Notice) : Frame :=
  { kind := noticeCode n.content, tag := BitVec.ofNat 8 n.number, payload := beBytes 1 n.lost ++ noticeBytes n.content }

end Sys2Proof.Machine
end

