-- ==== Sys2Proof/Machine/Operands.lean ====
section
/-! DEFINITION. Operand forms: the request payloads of 11.3 with the lengths and ranges R183 and R184 judge. Each reader
answers none where the request is answered BAD_ARGS. -/

namespace Sys2Proof.Machine

/-- No fields: BEGIN, GET_REPORT, FORMAT, POLL_NOTICE, RESTART. -/
def readEmpty (payload : List Byte) : Option Unit := if payload.isEmpty then some () else none

/-- A transaction number in its range, 1 to 4,294,967,294. -/
def numberInRange (n : Nat) : Bool := decide (1 ≤ n ∧ n ≤ 4294967294)

/-- STATUS: the clear flag, 0 or 1. -/
def readStatusFlag (payload : List Byte) : Option Bool :=
  match payload with
  | [b] => if b = 0 then some false else if b = 1 then some true else none
  | _ => none

/-- ABANDON and COMMIT: a transaction number. -/
def readNumber (payload : List Byte) : Option Nat :=
  if payload.length = 4 ∧ numberInRange (beNat payload) then some (beNat payload) else none

/-- ACK_NOTICE: a notice number, 1 to 255. -/
def readNoticeNumber (payload : List Byte) : Option Nat :=
  match payload with
  | [b] => if b = 0 then none else some b.toNat
  | _ => none

/-- READ: an identifier. -/
def readIdent (payload : List Byte) : Option Nat :=
  if payload.length = 2 ∧ identInRange (beNat payload) then some (beNat payload) else none

/-- LIST: the first identifier and the maximum count, 1 to 20. -/
def readListArgs (payload : List Byte) : Option (Nat × Nat) :=
  let first := beNat (payload.take 2)
  let count := beNat (payload.drop 2)
  if payload.length = 3 ∧ identInRange first ∧ 1 ≤ count ∧ count ≤ 20 then some (first, count) else none

/-- WEAR: the first page and the count, their sum at most 32. -/
def readWearArgs (payload : List Byte) : Option (Nat × Nat) :=
  let first := beNat (payload.take 1)
  let count := beNat (payload.drop 1)
  if payload.length = 2 ∧ first ≤ 31 ∧ 1 ≤ count ∧ count ≤ 32 ∧ first + count ≤ 32 then some (first, count) else none

/-- The common fields of the STAGE requests, and the bytes that follow them. -/
def readStageCommon (payload : List Byte) : Option (Nat × Nat × List Byte) :=
  let number := beNat (payload.take 4)
  let ident := beNat ((payload.drop 4).take 2)
  if 6 ≤ payload.length ∧ numberInRange number ∧ identInRange ident then some (number, ident, payload.drop 6) else none

/-- STAGE_WRITE: transaction number, identifier, data of 0 to 240 bytes. -/
def readStageWrite (payload : List Byte) : Option (Nat × Nat × List Byte) :=
  if payload.length ≤ 246 then readStageCommon payload else none

/-- STAGE_DELETE: transaction number, identifier. -/
def readStageDelete (payload : List Byte) : Option (Nat × Nat) :=
  if payload.length = 6 then (readStageCommon payload).map (fun a => (a.1, a.2.1)) else none

/-- STAGE_TALLY: transaction number, identifier, initial value. -/
def readStageTally (payload : List Byte) : Option (Nat × Nat × Nat) :=
  if payload.length = 10 then (readStageCommon payload).map (fun a => (a.1, a.2.1, beNat a.2.2)) else none

/-- INCREMENT: identifier, delta 1 to 65,535. -/
def readIncrement (payload : List Byte) : Option (Nat × Nat) :=
  let ident := beNat (payload.take 2)
  let delta := beNat (payload.drop 2)
  if payload.length = 4 ∧ identInRange ident ∧ 1 ≤ delta then some (ident, delta) else none

/-- COMPACT: a victim count, 1 to 8. -/
def readVictims (payload : List Byte) : Option Nat :=
  match payload with
  | [b] => if 1 ≤ b.toNat ∧ b.toNat ≤ 8 then some b.toNat else none
  | _ => none

end Sys2Proof.Machine
end

