-- ==== Sys2Proof/Machine/Ops.lean ====
section
/-! DEFINITION. Named operations over the array's cells, the page table, the directory, the transmit queue, the replay
table, the notice queue and the arbiter's requests. Every meaning reads and writes the state through these. -/

namespace Sys2Proof.Machine

/-! ### The array's cells (R80) -/

/-- The address of a cell. -/
def cellAddress (page : PageIx) (cell : Nat) : Nat := page.val * 128 + cell

/-- What an unlisted address holds: a blank cell. -/
def blankContent : CellContent := .word blankCell

/-- The content of one cell. -/
def Memory.read : Memory → Nat → CellContent
  | [], _ => blankContent
  | (b, c) :: m, a => if a = b then c else Memory.read m a

/-- One cell written; writing a blank cell removes its entry. -/
def Memory.write : Memory → Nat → CellContent → Memory
  | [], a, c => if c = blankContent then [] else [(a, c)]
  | (b, d) :: m, a, c =>
    if a < b then (if c = blankContent then (b, d) :: m else (a, c) :: (b, d) :: m)
    else if a = b then (if c = blankContent then m else (a, c) :: m)
    else (b, d) :: Memory.write m a c

/-- Every cell of a page blank (R80, R86). -/
def Memory.clearPage (m : Memory) (page : PageIx) : Memory := m.filter (fun x => x.1 / 128 ≠ page.val)

/-- Every cell of a page indeterminate (R86, R87). -/
def Memory.spoilPage (m : Memory) (page : PageIx) : Memory :=
  (List.range 128).foldl (fun acc c => acc.write (cellAddress page c) .indeterminate) m

/-- The canonical form: addresses strictly rising, no blank cell listed. -/
def Memory.wf : Memory → Bool
  | [] => true
  | (a, c) :: m => decide (c ≠ blankContent) && (m.all (fun x => decide (a < x.1))) && Memory.wf m

/-- What n cells from an address on read as. noise lists what the indeterminate ones read as this time, in order;
beyond it they read as free values. The second component is the next free index. -/
def Memory.readRun (m : Memory) : Nat → Nat → List CellWord → Nat → List CellWord × Nat
  | _, 0, _, k => ([], k)
  | a, n + 1, noise, k =>
    match m.read a, noise with
    | .word w, _ => (w :: (m.readRun (a + 1) n noise k).1, (m.readRun (a + 1) n noise k).2)
    | .indeterminate, x :: rest => (x :: (m.readRun (a + 1) n rest k).1, (m.readRun (a + 1) n rest k).2)
    | .indeterminate, [] =>
      (Config.indeterminateCell k :: (m.readRun (a + 1) n [] (k + 1)).1, (m.readRun (a + 1) n [] (k + 1)).2)

/-! ### The page table (R88, R89) -/

/-- The pages in ascending index. -/
def allPages : List PageIx := List.finRange 32

def State.page (s : State) (p : PageIx) : PageRec := s.array.table.get p

def State.setPage (s : State) (p : PageIx) (r : PageRec) : State :=
  { s with array := { s.array with table := s.array.table.set p r } }

/-- The pages in a state, ascending. -/
def State.pagesIn (s : State) (st : PageState) : List PageIx := allPages.filter (fun p => (s.page p).state = st)

def State.countIn (s : State) (st : PageState) : Nat := (s.pagesIn st).length

/-- The ERASED count (R95). -/
def State.erasedCount (s : State) : Nat := s.countIn .erased

/-- Pages that are not RETIRED (R90). -/
def State.usableCount (s : State) : Nat := (allPages.filter (fun p => (s.page p).state ≠ .retired)).length

/-- The OPEN page; at most one page is OPEN (R90). -/
def State.openPage (s : State) : Option PageIx := (s.pagesIn .opened).head?

/-- The free cells of the OPEN page: 128 minus its append point (R89); 0 when no page is OPEN. -/
def State.freeCells (s : State) : Nat :=
  match s.openPage, s.array.appendPoint with
  | some _, some a => 128 - a
  | _, _ => 0

/-- Dead cells: used minus 2 minus live (R88). -/
def deadCells (r : PageRec) : Nat := r.used - 2 - r.live

def State.addLive (s : State) (p : PageIx) (n : Nat) : State :=
  s.setPage p { s.page p with live := (s.page p).live + n }

def State.subLive (s : State) (p : PageIx) (n : Nat) : State :=
  s.setPage p { s.page p with live := (s.page p).live - n }

/-- The used cells rise to a limit, if that is larger (R89). -/
def State.raiseUsed (s : State) (p : PageIx) (limit : Nat) : State :=
  s.setPage p { s.page p with used := max (s.page p).used limit }

/-- The OPEN page, if there is one, becomes SEALED with its remaining cells left blank (R53, R91). -/
def State.sealOpenPage (s : State) : State :=
  match s.openPage with
  | none => s
  | some p =>
    let s := s.setPage p { s.page p with state := .sealed }
    { s with array := { s.array with appendPoint := none } }

/-- A run reserved at the append point of the OPEN page (R89). -/
def State.reserve (s : State) (page : PageIx) (words : List CellWord) : Run × State :=
  let at' := s.array.appendPoint.getD 128
  ({ page, first := at', words, done := 0 },
   { s with array := { s.array with appendPoint := some (at' + words.length) } })

/-- A run that joins its page's faulted-run list, its cells counting as used (R89, R103). -/
def State.faultRun (s : State) (r : Run) : State :=
  let s := s.raiseUsed r.page (r.first + r.words.length)
  { s with array := { s.array with faulted := s.array.faulted ++ [{ page := r.page, first := r.first, count := r.words.length }] } }

/-- A run in programming, if any, ends early (R89). -/
def State.faultRunIfAny (s : State) : Option Run → State
  | none => s
  | some r => s.faultRun r

/-- What leaves with the content of a page that becomes ERASED or RETIRED: its faulted runs (R103), its carry-list
pair (R104), and the standing of a commit's final locations and relocated copies on it. -/
def State.pageGone (s : State) (p : PageIx) : State :=
  { s with
    array := { s.array with faulted := s.array.faulted.filter (fun f => f.page ≠ p) }
    carry := s.carry.filter (fun c => c.page ≠ p)
    executor := { s.executor with commit := s.executor.commit.map (fun c =>
      { c with
        items := c.items.map (fun i =>
          if i.final.any (fun l => l.page = p) then { i with finalStands := false } else i)
        copies := c.copies.filter (fun x => x.2.page ≠ p) }) } }

/-- The page becomes ERASED with an erase count (R86). -/
def State.becomeErased (s : State) (p : PageIx) (count : Nat) : State :=
  let append := if s.openPage = some p then none else s.array.appendPoint
  let s := s.setPage p { state := .erased, eraseCount := count, sequence := none, used := 2, live := 0 }
  ({ s with array := { s.array with appendPoint := append } }).pageGone p

/-- The page becomes RETIRED, keeping its erase count (R118, R141). -/
def State.becomeRetired (s : State) (p : PageIx) : State :=
  let append := if s.openPage = some p then none else s.array.appendPoint
  let s := s.setPage p { state := .retired, eraseCount := (s.page p).eraseCount, sequence := none, used := 2, live := 0 }
  ({ s with array := { s.array with appendPoint := append } }).pageGone p

/-- The erase count a requester supplies: one more, saturating (R82). -/
def nextEraseCount (count : Nat) : Nat := min (count + 1) Config.maxWord

/-! ### The arbiter's requests and the operation in flight (R96) -/

def State.request (s : State) (who : Requester) (op : Option RequestOp) : State :=
  match who with
  | .executor => { s with array := { s.array with executorRequest := op } }
  | .compaction => { s with array := { s.array with compactionRequest := op } }
  | .mount => { s with array := { s.array with mountRequest := op } }

/-- An operation granted to a requester. -/
def State.start (s : State) (who : Requester) (op : ArrayOp) : State :=
  { s with array := { s.array with inFlight := some { owner := some who, op } } }

/-- The operation in flight, if it is this requester's, hands its outcome to nobody: the work that asked has ended. -/
def State.disown (s : State) (who : Requester) : State :=
  match s.array.inFlight with
  | some f => if f.owner = some who then { s with array := { s.array with inFlight := some { f with owner := none } } } else s
  | none => s

/-- Whether an operation of the requester is in flight. -/
def State.flying (s : State) (who : Requester) : Bool := s.array.inFlight.any (fun f => f.owner = some who)

/-- The next cell of a run goes out as a program. -/
def State.startCell (s : State) (who : Requester) (r : Run) : State :=
  s.start who (.program r.page (r.first + r.done) (r.words.getD r.done blankCell))

/-- What a cell holds after its program: the word, or indeterminate content after VERIFY_FAIL (R85). -/
def landedContent (w : CellWord) : ArrayOutcome → CellContent
  | .ok => .word w
  | .verifyFail => .indeterminate

/-- A cell program has completed (R85). -/
def State.landCell (s : State) (p : PageIx) (cell : Nat) (w : CellWord) (outcome : ArrayOutcome) : State :=
  { s with array := { s.array with cells := s.array.cells.write (cellAddress p cell) (landedContent w outcome) } }

/-- A page erase has completed: the page is blank but for its wear header, or indeterminate after VERIFY_FAIL (R86). -/
def State.landErase (s : State) (p : PageIx) (count : Nat) (outcome : ArrayOutcome) : State :=
  { s with array := { s.array with cells :=
      match outcome with
      | .ok => (s.array.cells.clearPage p).write (cellAddress p 0) (.word (wearHeader count))
      | .verifyFail => s.array.cells.spoilPage p } }

/-- The array with nothing in flight. -/
def State.landed (s : State) : State := { s with array := { s.array with inFlight := none } }

/-- The operation in flight is cut off by a cold restart (R87). -/
def State.cutOff (s : State) : State :=
  match s.array.inFlight with
  | none => s
  | some f =>
    let cells :=
      match f.op with
      | .read .. => s.array.cells
      | .program p c _ => s.array.cells.write (cellAddress p c) .indeterminate
      | .openHeader p _ => s.array.cells.write (cellAddress p 1) .indeterminate
      | .erase p _ => s.array.cells.spoilPage p
    { s with array := { s.array with cells, inFlight := none } }

/-! ### The directory (R8 to R10) -/

/-- The entry of an identifier. -/
def findEntry (d : List DirEntry) (ident : Nat) : Option DirEntry := d.find? (fun e => e.ident = ident)

/-- An entry placed in identifier order, in place of one of the same identifier. -/
def putEntry : List DirEntry → DirEntry → List DirEntry
  | [], e => [e]
  | f :: d, e =>
    if e.ident < f.ident then e :: f :: d
    else if e.ident = f.ident then e :: d
    else f :: putEntry d e

/-- The entry of an identifier removed. -/
def dropEntry (d : List DirEntry) (ident : Nat) : List DirEntry := d.filter (fun e => e.ident ≠ ident)

def State.entryOf (s : State) (ident : Nat) : Option DirEntry := findEntry s.directory ident

def State.putEntry (s : State) (e : DirEntry) : State := { s with directory := Machine.putEntry s.directory e }

def isTombstone (e : DirEntry) : Bool :=
  match e.body with
  | .blob _ => false | .tally _ _ => false | .tombstone => true

/-- The tombstone count (R10). -/
def State.tombstoneCount (s : State) : Nat := (s.directory.filter isTombstone).length

/-- The bump locations of an entry (R66). -/
def bumpsOf (e : DirEntry) : List BumpLoc :=
  match e.body with
  | .blob _ => [] | .tally _ bumps => bumps | .tombstone => []

/-- The cells of a directory entry's current entry (R2). -/
def currentCells (e : DirEntry) : Nat :=
  match e.body with
  | .blob length => blobCells length | .tally _ _ => 2 | .tombstone => 1

/-- The live cells of an entry and its current bumps leave the pages that hold them (R57, R72, R76). -/
def State.dropLive (s : State) (e : DirEntry) : State :=
  (bumpsOf e).foldl (fun s b => s.subLive b.loc.page 1) (s.subLive e.loc.page (currentCells e))

/-- An identifier's stale count raised. -/
def State.addStale (s : State) (ident n : Nat) : State :=
  { s with directory := s.directory.map (fun e => if e.ident = ident then { e with stale := e.stale + n } else e) }

/-! ### The transmit queue (R156, R157) -/

/-- A producer finds a free place: fewer than 6 frames stand in the queue and no producer has been waiting longer. -/
def State.txRoom (s : State) : Bool :=
  decide (s.link.transmit.length < Config.transmitCapacity) && s.link.waiters.isEmpty

def State.placeFrame (s : State) (f : Frame) : State :=
  { s with link := { s.link with transmit := s.link.transmit ++ [f] } }

/-- A producer begins to wait for a place. -/
def State.beginWait (s : State) (p : Producer) : State :=
  if p ∈ s.link.waiters then s else { s with link := { s.link with waiters := s.link.waiters ++ [p] } }

/-- The request handler's frame joins the queue, or the handler waits with it (R148, R156). -/
def State.handlerSend (s : State) (f : Frame) : State :=
  if s.txRoom then s.placeFrame f
  else ({ s with link := { s.link with handlerReply := some f } }).beginWait .handler

/-- The request handler answers a frame. -/
def State.answer (s : State) (f : Frame) (payload : List Byte) : State := s.handlerSend (replyFrame f.kind f.tag payload)

/-! ### The replay table (R153, R154) -/

/-- An entry made for a reply to a mutating request. -/
def replayInsert (table : List ReplayEntry) (e : ReplayEntry) : List ReplayEntry :=
  let kept := table.filter (fun x => x.tag ≠ e.tag)
  (if kept.length < Config.replayCapacity then kept else kept.drop (kept.length + 1 - Config.replayCapacity)) ++ [e]

def requestFrame (r : Request) : Frame := { kind := requestCode r.kind, tag := r.tag, payload := r.payload }

def replayEntryOf (r : Request) (payload : List Byte) : ReplayEntry :=
  { tag := r.tag, kind := r.kind, check := frameCheck (requestCode r.kind) r.tag r.payload, reply := payload }

/-- The executor produces its reply: a mutating one enters the replay table, and the frame joins the transmit queue, or
the request stays executing while the executor waits (R151, R153, R156). -/
def State.reply (s : State) (payload : List Byte) : State :=
  match s.executor.executing with
  | none => s
  | some r =>
    let s := if isMutating r.kind then
        { s with link := { s.link with replay := replayInsert s.link.replay (replayEntryOf r payload) } } else s
    let f := replyFrame (requestCode r.kind) r.tag payload
    if s.txRoom then
      let s := s.placeFrame f
      { s with executor := { s.executor with executing := none } }
    else ({ s with executor := { s.executor with reply := some f } }).beginWait .executor

/-! ### Notices (R163, R165) -/

/-- The number after a notice number: 255 is followed by 1. -/
def nextNoticeNumber (n : Nat) : Nat := if n < 255 then n + 1 else 1

/-- A frame of the outgoing list that belongs to a notice still queued. -/
def frameOfQueued (queue : List Notice) (f : Frame) : Bool := queue.any (fun n => BitVec.ofNat 8 n.number = f.tag)

/-- The turns that stay when frames leave the outgoing list: the notice unit has one turn for each frame of the list, in the
order of the list (R156; the model's reading, log entry 22). -/
def keepTurns (keep : Frame → Bool) : List Frame → List Producer → List Producer
  | _, [] => []
  | frames, .handler :: turns => .handler :: keepTurns keep frames turns
  | frames, .executor :: turns => .executor :: keepTurns keep frames turns
  | [], .noticeUnit :: turns => keepTurns keep [] turns
  | f :: frames, .noticeUnit :: turns =>
    if keep f then .noticeUnit :: keepTurns keep frames turns else keepTurns keep frames turns

/-- The frames of notices that have left the queue leave the outgoing list unsent, with their turns (R165). -/
def State.dropUnsent (s : State) (kept : List Notice) : State :=
  { s with
    notices := { s.notices with outgoing := s.notices.outgoing.filter (frameOfQueued kept) }
    link := { s.link with waiters := keepTurns (frameOfQueued kept) s.notices.outgoing s.link.waiters } }

/-- A notice's frame joins the transmit queue through the outgoing list, or takes its turn to wait (R156, R165). -/
def State.sendNotice (s : State) (f : Frame) : State :=
  if s.txRoom && s.notices.outgoing.isEmpty then s.placeFrame f
  else { s with
    notices := { s.notices with outgoing := s.notices.outgoing ++ [f] }
    link := { s.link with waiters := s.link.waiters ++ [.noticeUnit] } }

/-- The notice queue is empty and ALERT_N high while RESET_N is low and in the hold of a cold restart (R164). -/
def mutedBy (resetNHigh : Bool) (r : Option Restarting) : Bool := !resetNHigh || r.any (fun r => r.cold)

def State.muted (s : State) : Bool := mutedBy s.supply.resetNHigh s.restarting

/-- A notice joins the queue as the newest, and its frame the outgoing list (R163, steps 2 to 4). Its lost count tells of the
notice that a full queue discards for it and of that one's lost count, and of no notice lost otherwise (log entry 40). -/
def State.joinNotice (s : State) (content : NoticeContent) : State :=
  let u := s.notices
  let lost :=
    if u.queue.length < Config.noticeCapacity then 0
    else match u.queue with
      | [] => 0
      | oldest :: _ => min (oldest.lost + 1) 255
  let kept := if u.queue.length < Config.noticeCapacity then u.queue else u.queue.drop 1
  let n : Notice := { number := u.nextNumber, lost, content }
  let s := { s with notices := { u with queue := kept ++ [n], nextNumber := nextNoticeNumber u.nextNumber } }
  (s.dropUnsent kept).sendNotice (noticeFrame n)

/-- A notice is raised (R163). One raised while RESET_N is low takes its number and joins nothing, since the queue is empty
then (R164): what becomes of it is the model's choice (log entry 36), and so is that no lost count tells of it (log entry 40). -/
def State.raise (s : State) (content : NoticeContent) : State :=
  if s.muted then { s with notices := { s.notices with nextNumber := nextNoticeNumber s.notices.nextNumber } }
  else s.joinNotice content

/-- A SUPPLY notice is asked for: raised, or deferred while the store is MOUNTING (R169). -/
def State.askSupply (s : State) (event : SupplyEvent) : State :=
  match s.store with
  | .mounting =>
    match event with
    | .cautionLongBegin => { s with notices := { s.notices with deferred := true } }
    | .normalAgain => { s with notices := { s.notices with deferred := false } }
  | .formatting => s.raise (.supply event)
  | .ready => s.raise (.supply event)
  | .readOnly => s.raise (.supply event)

/-! ### Restart causes (R176 to R179) -/

def isCold : Cause → Bool
  | .powerOn => true | .brownout => true | .resetLine => false | .restartRequest => false

/-- The notice queue is emptied: it is empty while RESET_N is held low and during the hold of a cold restart (R164). The
frames that wait in the outgoing list leave it unsent, with their turns (R165). That the notices emptied, and the lost counts
they held, enter no later notice's lost count is the model's choice (log entry 40). -/
def State.emptyNotices (s : State) : State :=
  { s with
    notices := { s.notices with queue := [], outgoing := [] }
    link := { s.link with waiters := s.link.waiters.filter (fun p => p ≠ .noticeUnit) } }

/-- A restart cause is taken: a restart begins, or the cause joins the one in progress (R179). A cold cause cuts off
the operation in flight (R87). That a RESET_LINE taken in the hold of a cold restart waits for RESET_N as well is the
model's choice (log entry 35). -/
def State.takeCause (s : State) (c : Cause) : State :=
  let r : Restarting :=
    match s.restarting with
    | none => { cause := c, cold := isCold c, needsResetHigh := decide (c = .resetLine) }
    | some r =>
      { cause := c, cold := r.cold || isCold c,
        needsResetHigh := if isCold c then false else r.needsResetHigh || decide (c = .resetLine) }
  let good := if s.restarting.isNone then false else s.supply.vddGood
  let s := if isCold c then s.cutOff else s
  let s := if isCold c || decide (c = .resetLine) then s.emptyNotices else s
  { s with restarting := some r, supply := { s.supply with vddGood := good } }

/-- The device takes characters on RXD: not while it is restarting or RESET_N is low (R161, R177, R178). -/
def State.listening (s : State) : Bool := s.restarting.isNone && s.supply.resetNHigh

end Sys2Proof.Machine
end

