-- ==== Sys2Proof/Machine/Flags.lean ====
section
/-! DEFINITION. Output pins and status figures computed from the state: ALERT_N, TXD, the STATUS record, the status flags of
the LIST reply and the WEAR records. -/

namespace Sys2Proof.Machine

/-- The level of ALERT_N: low exactly when the notice queue is non-empty (R164). The queue is empty while RESET_N is low and in
the hold of a cold restart: State.muted, log entry 20. -/
def State.alertNLow (s : State) : Bool := !s.notices.queue.isEmpty

/-- TXD carries the head of the transmit queue: not while it is held high (R161, R177, R178). -/
def State.sending (s : State) : Option Frame :=
  if s.listening then s.link.transmit.head? else none

/-- The directory, array and engine figures are those of a mounted store (R10, R101, R102, R159). -/
def State.mounted (s : State) : Bool := decide (s.store = .ready ∨ s.store = .readOnly)

/-- The number of staged data bytes (R25). -/
def opBytes : StagedOp → Nat
  | .write _ data => data.length | .delete _ => 0 | .createTally _ _ => 0

def stagedBytes (ops : List StagedOp) : Nat := (ops.map opBytes).sum

/-- The status record, 25 bytes (R158, R159, 11.4). -/
def State.statusRecord (s : State) : List Byte :=
  let shown (n : Nat) : Nat := if s.mounted then n else 0
  [storeStateCode s.store, txnStateCode s.txn.state] ++ beBytes 4 (s.txn.number.getD 0)
    ++ beBytes 1 s.txn.staging.length ++ beBytes 2 (stagedBytes s.txn.staging)
    ++ beBytes 1 s.link.queue.length
    ++ [match s.executor.executing with | some r => requestCode r.kind | none => 0]
    ++ [if s.mounted then phaseCode s.compaction.phase else 0]
    ++ [match (if s.mounted then s.compaction.victim else none) with | some p => BitVec.ofNat 8 p.val | none => 0xFF]
    ++ beBytes 1 (shown s.erasedCount) ++ beBytes 1 (shown (s.countIn .sealed)) ++ beBytes 1 (shown (s.countIn .retired))
    ++ beBytes 1 (shown s.freeCells)
    ++ beBytes 2 (if s.store = .mounting then 0 else s.directory.length)
    ++ beBytes 2 (if s.store = .mounting then 0 else s.tombstoneCount)
    ++ [supplyStateCode s.supply.state] ++ beBytes 1 s.notices.queue.length ++ beBytes 2 s.link.discarded

/-- The length LIST reports: a BLOB's data length, 0 for a TALLY or a TOMBSTONE (R20). -/
def listedLength (e : DirEntry) : Nat :=
  match e.body with
  | .blob length => length | .tally _ _ => 0 | .tombstone => 0

/-- One entry of a LIST reply. -/
def listedBytes (e : DirEntry) : List Byte :=
  beBytes 2 e.ident ++ [bodyCode e.body] ++ beBytes 4 e.gen ++ beBytes 1 (listedLength e)

/-- The reply of LIST: up to count entries from the first identifier on, and the MORE flag (R20). -/
def listReply (d : List DirEntry) (first count : Nat) : List Byte :=
  let rest := d.filter (fun e => first ≤ e.ident)
  let shown := rest.take count
  [resultCode .ok] ++ beBytes 1 shown.length ++ [flagByte (decide (count < rest.length))] ++ shown.flatMap listedBytes

/-- One record of a WEAR reply; an ERASED or RETIRED page shows used 2 and live 0 (R100). -/
def wearBytes (r : PageRec) : List Byte :=
  let bare := decide (r.state = .erased ∨ r.state = .retired)
  [pageStateCode r.state] ++ beBytes 4 r.eraseCount ++ beBytes 1 (if bare then 2 else r.used)
    ++ beBytes 1 (if bare then 0 else r.live)

/-- The reply of WEAR (R100). -/
def State.wearReply (s : State) (first count : Nat) : List Byte :=
  [resultCode .ok] ++ beBytes 1 first ++ beBytes 1 count
    ++ ((allPages.filter (fun p => first ≤ p.val ∧ p.val < first + count)).flatMap (fun p => wearBytes (s.page p)))

end Sys2Proof.Machine
end

