-- ==== Sys2Proof/Machine/Engine.lean ====
section
/-! DEFINITION. The compaction engine's control: demand, choosing a victim, the end of a walk and of a run, and what a
change of the store state does to it (R105 to R108, R114, R119, R120); the victim counts (R16). -/

namespace Sys2Proof.Machine

/-! ### Runs in programming, and what the walk has passed -/

/-- The executor's run in programming. -/
def State.executorRun (s : State) : Option Run :=
  match s.executor.commit, s.executor.increment, s.executor.format with
  | some c, _, _ => c.run
  | none, some i, _ => i.run
  | none, none, some f => f.run
  | none, none, none => none

/-- A page holds a reserved run of the executor still in programming (R108). -/
def State.runOn (s : State) (p : PageIx) : Bool := s.executorRun.any (fun r => r.page = p)

/-- The engine works on the record at the walk position, so the walk has passed it. -/
def engaged : Action → Bool
  | .none => false | .seal => false | .survey => false | .readCopy => true | .copy _ _ => true | .fold _ => true
  | .awaitCommit => false | .release => false | .erase _ => false

/-- The walk has passed survey position i. -/
def Compaction.passed (c : Compaction) (i : Nat) : Bool :=
  match c.walk with
  | none => true
  | some w => decide (i < w) || (decide (i = w) && engaged c.action)

/-- A location lies in the victim at a survey record the walk has passed (R16). -/
def Compaction.passedLoc (c : Compaction) (l : Loc) : Bool :=
  decide (c.victim = some l.page) && c.survey.zipIdx.any (fun x => decide (x.1.first = l.cell) && c.passed x.2)

/-- A count raised by n in a list of counts per identifier. -/
def raiseCount : List (Nat × Nat) → Nat → Nat → List (Nat × Nat)
  | [], ident, n => [(ident, n)]
  | (i, k) :: rest, ident, n => if i = ident then (i, k + n) :: rest else (i, k) :: raiseCount rest ident n

def State.addVictimCount (s : State) (ident n : Nat) : State :=
  { s with compaction := { s.compaction with victimCounts := raiseCount s.compaction.victimCounts ident n } }

/-- Entries of an identifier have just been superseded: those in the victim that the walk has passed join the victim
count (R16, R56, R112). -/
def State.countSuperseded (s : State) (ident : Nat) (locs : List Loc) : State :=
  let n := (locs.filter s.compaction.passedLoc).length
  if n = 0 then s else s.addVictimCount ident n

/-! ### Ending a run -/

/-- The records of a victim, cleared (R102: absent and empty outside COPY, RELEASE and ERASE). -/
def Compaction.noVictim (c : Compaction) : Compaction :=
  { c with victim := none, survey := [], walk := none, victimCounts := [], folded := [], drops := [], spend := 0,
           failures := 0, action := .none, run := none, surveyed := [], stopping := false }

def State.clearDemands (s : State) : State :=
  { s with compaction := { s.compaction with hostDemand := 0, automaticDemand := false } }

/-- The run ends (R119): IDLE, and COMPACTED if a victim was completed. -/
def State.endRun (s : State) : State :=
  let c := s.compaction
  let idle := ({ s with compaction := { c.noVictim with phase := .idle, runVictims := 0, runReclaimed := 0 } }).request
    .compaction none
  if 1 ≤ c.runVictims then idle.raise (.compacted c.runVictims c.runReclaimed s.erasedCount) else idle

/-! ### Choosing a victim (R107, R108) -/

def State.eligibleVictim (s : State) (p : PageIx) : Bool :=
  decide ((s.page p).state = .sealed ∧ 1 ≤ deadCells (s.page p)) && !s.runOn p

/-- p is preferred to q: more dead cells, or as many and a lower sequence number. -/
def State.betterVictim (s : State) (p q : PageIx) : Bool :=
  decide (deadCells (s.page q) < deadCells (s.page p) ∨
    (deadCells (s.page q) = deadCells (s.page p) ∧ (s.page p).sequence.getD 0 < (s.page q).sequence.getD 0))

def State.bestVictim (s : State) : Option PageIx :=
  (allPages.filter s.eligibleVictim).foldl
    (fun best p => match best with
      | none => some p
      | some q => if s.betterVictim p q then some p else some q) none

/-- The page becomes VICTIM, the walk position stands at the start, and the survey's first read is requested (R108). -/
def State.takeVictim (s : State) (p : PageIx) : State :=
  let s := s.setPage p { s.page p with state := .victim }
  ({ s with compaction := { s.compaction.noVictim with phase := .copy, victim := some p, walk := some 0, action := .survey } }).request
    .compaction (some .read)

/-- The OPEN page may be sealed to become a victim: it has a dead cell and no run in programming, and 2 or more pages
are ERASED (R108). -/
def State.sealable (s : State) : Bool :=
  match s.openPage with
  | some p => decide (1 ≤ deadCells (s.page p) ∧ 2 ≤ s.erasedCount) && !s.runOn p
  | none => false

/-- The engine chooses: a victim, or the sealing of the OPEN page, or the end of the run with SPACE_LOW where the
ERASED pages number 2 or fewer (R108). -/
def State.choose (s : State) : State :=
  match s.bestVictim with
  | some p => s.takeVictim p
  | none =>
    if s.sealable then
      ({ s with compaction := { s.compaction with action := .seal } }).request .compaction (some .program)
    else
      let t := s.clearDemands
      (if s.erasedCount ≤ 2 then t.raise (.spaceLow s.erasedCount) else t).endRun

/-- The clearing test of R105. -/
def State.clearingTest (s : State) : State :=
  if 6 ≤ s.erasedCount ∧ s.tombstoneCount ≤ 64 then
    { s with compaction := { s.compaction with automaticDemand := false } }
  else s

def State.demanded (s : State) : Bool := s.compaction.automaticDemand || decide (0 < s.compaction.hostDemand)

/-- SELECT: the clearing test, then the end of the run or, with the supply NORMAL, the choice (R107). -/
def State.select (s : State) : State :=
  let s := s.clearingTest
  if s.demanded then
    match s.supply.state with
    | .normal => s.choose
    | .caution => s
    | .cautionLong => s
  else s.endRun

/-- The engine enters SELECT. -/
def State.enterSelect (s : State) : State :=
  (({ s with compaction := { s.compaction.noVictim with phase := .select } }).request .compaction none).select

/-- A run begins if the engine is IDLE, the store READY and demand present (R105, R106). -/
def State.beginRun (s : State) : State :=
  if s.compaction.phase = .idle ∧ s.store = .ready ∧ s.demanded then s.enterSelect else s

/-- The automatic demand is set; with the engine IDLE and the store READY a run begins (R105). -/
def State.setDemand (s : State) : State :=
  ({ s with compaction := { s.compaction with automaticDemand := true } }).beginRun

/-- The supply has returned to NORMAL: an engine in SELECT with no open header in flight chooses in this event, after
the clearing test (R107, R175). -/
def State.resumeSelect (s : State) : State :=
  if s.compaction.phase = .select ∧ !s.flying .compaction then s.enterSelect else s

/-! ### Ending a walk (R114, R115, R120) -/

/-- The waits of a commit or an increment for the victim end (R45, R70). -/
def State.endWaits (s : State) : State :=
  { s with executor := { s.executor with
    commit := s.executor.commit.map (fun c => if c.stage = .waiting then { c with waitOver := true } else c)
    increment := s.executor.increment.map (fun i => if i.waiting then { i with waitOver := true } else i) } }

/-- The victim returns to SEALED, and a run of the engine still in programming ends early. -/
def State.leaveVictim (s : State) : State :=
  let s := match s.compaction.victim with
    | some v => s.setPage v { s.page v with state := .sealed }
    | none => s
  let s := s.faultRunIfAny s.compaction.run
  { s with compaction := { s.compaction with run := none } }

/-- Steps 4 to 6 of R114: the victim counts and drop candidates go, the demands are cleared and the run ends. -/
def State.closeWalk (s : State) : State := s.endWaits.clearDemands.endRun

/-- R120: the walk ends without sealing a page and without a MEDIA notice. -/
def State.abandonWalk (s : State) : State := s.leaveVictim.closeWalk

/-- R114: the third VERIFY_FAIL of one program of the walk or of the RELEASE, met on a page. -/
def State.exhaustWalk (s : State) (failed : PageIx) : State :=
  ((s.leaveVictim.sealOpenPage).raise (.media failed .programRetriesExhausted)).closeWalk

/-- R115: a page switch of the walk or of the RELEASE found no ERASED page. -/
def State.starveWalk (s : State) : State :=
  let s := s.leaveVictim
  (s.raise (.spaceLow s.erasedCount)).closeWalk

/-- The store has become READ_ONLY or FORMATTING: the engine proceeds by its phase (R120). -/
def State.stopEngine (s : State) : State :=
  match s.compaction.phase with
  | .idle => s
  | .select => (s.disown .compaction).clearDemands.endRun
  | .copy =>
    if s.flying .compaction then { s with compaction := { s.compaction with stopping := true } } else s.abandonWalk
  | .release => s
  | .erase => s

/-- The store state READ_ONLY takes the place of READY; a FORMAT in progress keeps it as the state it returns to. -/
def State.markReadOnly (s : State) : State :=
  match s.store with
  | .ready => { s with store := .readOnly }
  | .formatting =>
    { s with executor := { s.executor with format := s.executor.format.map (fun f => { f with previous := .readOnly }) } }
  | .mounting => s
  | .readOnly => s

/-- The store becomes READ_ONLY (R94). -/
def State.becomeReadOnly (s : State) : State :=
  match s.store with
  | .ready => s.markReadOnly.stopEngine
  | .formatting => s.markReadOnly
  | .mounting => s
  | .readOnly => s

end Sys2Proof.Machine
end

