-- ==== Sys2Proof/Machine/Switch.lean ====
section
/-! DEFINITION. The page switch (R91 to R95). -/

namespace Sys2Proof.Machine

/-- The ERASED page with the lowest erase count, the lowest index among those that share it (R92). -/
def State.leastWorn (s : State) : Option PageIx :=
  (s.pagesIn .erased).foldl
    (fun best p => match best with
      | none => some p
      | some q => if (s.page p).eraseCount < (s.page q).eraseCount then some p else some q) none

/-- Steps 1, 2 and 4 of R91: the OPEN page is sealed, the page opened with its sequence number, and its open header
goes out as the granted program. -/
def State.openFor (s : State) (who : Requester) (p : PageIx) (sequence : Nat) : State :=
  let s := s.sealOpenPage
  let s := s.setPage p { s.page p with state := .opened, sequence := some sequence, used := 2, live := 0 }
  ({ s with array := { s.array with appendPoint := some 2 } }).start who (.openHeader p (openHeader sequence))

/-- Step 3 of R91, with R94: the next sequence number rises, or is exhausted and the store becomes READ_ONLY. -/
def State.spendSequence (s : State) (sequence : Nat) : State :=
  if sequence < Config.maxWord then { s with array := { s.array with nextSequence := some (sequence + 1) } }
  else ({ s with array := { s.array with nextSequence := none } }).becomeReadOnly

/-- A switch that leaves 4 or fewer pages ERASED sets the automatic demand (R95, R105). -/
def State.lowWater (s : State) : State := if s.erasedCount ≤ 4 then s.setDemand else s

/-- A page switch to a page with a sequence number. That the change to READ_ONLY goes before the low-water demand in the
event that spends the last number is the model's choice (log entry 30). -/
def State.switchTo (s : State) (who : Requester) (p : PageIx) (sequence : Nat) : State :=
  ((s.openFor who p sequence).spendSequence sequence).lowWater

/-- A page switch; none when it is not made, for want of an ERASED page or of a sequence number (R94). -/
def State.pageSwitch (s : State) (who : Requester) : Option State :=
  match s.array.nextSequence, s.leastWorn with
  | some n, some p => some (s.switchTo who p n)
  | _, _ => none

/-- The open header program of a switch has completed: the page is ready, or set aside (R91, R93). -/
def State.landHeader (s : State) (p : PageIx) (w : CellWord) (outcome : ArrayOutcome) : State :=
  let s := s.landCell p 1 w outcome
  match outcome with
  | .ok => s.raiseUsed p 2
  | .verifyFail =>
    let s := s.setPage p { s.page p with state := .sealed, used := 128, live := 0 }
    { s with array := { s.array with appendPoint := none } }

/-- A run of that many cells fits in the OPEN page (R91). -/
def State.fits (s : State) (cells : Nat) : Bool := s.openPage.isSome && decide (cells ≤ s.freeCells)

/-- The pages a placement of that many cells opens (R47, R70). -/
def State.placementOpens (s : State) (cells : Nat) : Nat := if s.fits cells then 0 else 1

/-- Space admission: the placement keeps two ERASED pages back (R47, R70). -/
def State.spaceAdmits (s : State) (cells : Nat) : Bool := decide (s.placementOpens cells + 2 ≤ s.erasedCount)

/-- A commit or increment waits for the victim the engine holds while fewer than 2 pages are ERASED (R45, R70). -/
def State.mustWait (s : State) : Bool := s.compaction.victim.isSome && decide (s.erasedCount < 2)

end Sys2Proof.Machine
end

