-- ==== Sys2Proof/Machine/Committing.lean ====
section
/-! DEFINITION. The commit from its checks to its reply (R43 to R63): admission, placement and relocation, the marker, the
apply, and its endings. -/

namespace Sys2Proof.Machine

/-! ### Staged operations -/

def opIdent : StagedOp → Nat
  | .write ident _ => ident | .delete ident => ident | .createTally ident _ => ident

/-- The cells of an operation's entry (R47). -/
def opCells : StagedOp → Nat
  | .write _ data => blobCells data.length | .delete _ => 1 | .createTally _ _ => 2

/-- The directory fields an applied operation leaves (R12, R65). -/
def opBody : StagedOp → DirBody
  | .write _ data => .blob data.length | .delete _ => .tombstone | .createTally _ initial => .tally initial []

/-- An operation's entry composed from the directory as it stands: the generation of R3, SELF clear (R50). -/
def State.composeOp (s : State) (op : StagedOp) : Composed :=
  let gen := match s.entryOf (opIdent op) with
    | some e => e.gen + 1
    | none => 1
  let txn := s.txn.number.getD 0
  { gen
    words := match op with
      | .write ident data => entryWords (.blob 0 ident txn gen data.length) data
      | .delete ident => entryWords (.tombstone 0 ident txn gen) []
      | .createTally ident initial => entryWords (.tallyBase 0 ident txn gen initial) [] }

/-! ### Records and endings -/

/-- A commit record as a COMMIT that passes its checks creates it (R44). -/
def CommitRecord.fresh (operations : Nat) : CommitRecord :=
  { stage := .waiting, waitOver := false, commitPage := none, position := 0,
    items := List.replicate operations { composed := none, final := none, finalStands := false, failures := 0 },
    markerFailures := 0, markerGranted := false, granted := false, programmed := false, relocate := [], copies := [],
    run := none }

def State.setCommit (s : State) (c : Option CommitRecord) : State :=
  { s with executor := { s.executor with commit := c } }

/-- The transaction state becomes NONE: no number, no staged operation, no idle timer (R22). -/
def State.endTxn (s : State) : State :=
  { s with txn := { s.txn with state := .none, number := none, idleRunning := false, staging := [] } }

/-- The commit record is discarded and a waiting request of the commit withdrawn. -/
def State.dropCommit (s : State) : State := (s.setCommit none).request .executor none

/-- The commit is refused and its transaction returns to OPEN, the idle timer from zero (R45, R48). -/
def State.refuseCommit (s : State) (r : Result) : State :=
  let s := s.dropCommit
  ({ s with txn := { s.txn with state := .opened, idleRunning := true } }).reply (bare r)

/-- The commit ends its transaction with a failure; a run in programming ends early. -/
def State.failCommit (s : State) (c : CommitRecord) (r : Result) : State :=
  (((s.faultRunIfAny c.run).dropCommit).endTxn).reply (bare r)

/-! ### Admission (R45 to R48) -/

/-- Staged operations whose identifier has no directory entry (R46). -/
def State.newIdents (s : State) : Nat :=
  (s.txn.staging.filter (fun op => (s.entryOf (opIdent op)).isNone)).length

/-- The cells a commit needs: its entries and the marker (R47). -/
def commitNeed (ops : List StagedOp) : Nat := (ops.map opCells).sum + 1

/-- Both admissions in one event (R46, R47, R48). -/
def State.admitCommit (s : State) (c : CommitRecord) : State :=
  if Config.directoryCapacity - s.directory.length < s.newIdents then (s.refuseCommit .directoryFull).setDemand
  else if s.spaceAdmits (commitNeed s.txn.staging) then
    (s.setCommit (some { c with stage := if s.txn.staging.isEmpty then .marking else .programming })).request .executor
      (some .program)
  else (s.refuseCommit .storeFull).setDemand

/-- A COMMIT that passes its checks (R44, R45). -/
def State.beginCommit (s : State) : State :=
  let c := CommitRecord.fresh s.txn.staging.length
  let s := { s with txn := { s.txn with state := .committing, idleRunning := false } }
  let s := s.setCommit (some c)
  if s.mustWait then s else s.admitCommit c

/-- The wait for the victim has ended: the store state is checked again (R45). -/
def State.resumeCommit (s : State) (c : CommitRecord) : State :=
  if s.store = .readOnly then s.refuseCommit .readOnly else s.admitCommit c

/-! ### Placement (R49 to R52) -/

/-- What the next attempt of the commit places. -/
inductive Target where
  | relocate (position : Nat)
  | entry (position : Nat)
  | marker
deriving DecidableEq, Repr

def CommitRecord.target (c : CommitRecord) : Target :=
  match c.relocate with
  | i :: _ => .relocate i
  | [] => if c.position < c.items.length then .entry c.position else .marker

/-- The cells still to be placed: the entries to relocate, this and every later entry, and the marker (R49). -/
def stillToPlace (c : CommitRecord) (ops : List StagedOp) : Nat :=
  ((ops.zipIdx.filter (fun x => decide (c.position ≤ x.2) || decide (x.2 ∈ c.relocate))).map (fun x => opCells x.1)).sum + 1

/-- The test of R49: the commit page is still the OPEN page, and its free cells are enough. -/
def State.commitFits (s : State) (c : CommitRecord) : Bool :=
  match s.openPage with
  | none => false
  | some p => (c.commitPage.all (fun q => q = p)) && decide (stillToPlace c s.txn.staging ≤ s.freeCells)

/-- The positions that already have a final location, in staging order (R52). -/
def placedPositions (items : List CommitItem) : List Nat :=
  (items.zipIdx.filter (fun x => x.1.final.isSome)).map (fun x => x.2)

/-- The words of the attempt, and the record with the entry composed if this is its first (R50). -/
def State.attemptWords (s : State) (c : CommitRecord) : List CellWord × CommitRecord :=
  let ofPosition (i : Nat) : List CellWord × CommitRecord :=
    match c.items[i]?, s.txn.staging[i]? with
    | some item, some op =>
      let made := item.composed.getD (s.composeOp op)
      (made.words, { c with items := c.items.set i { item with composed := some made } })
    | _, _ => ([], c)
  match c.target with
  | .relocate i => ofPosition i
  | .entry i => ofPosition i
  | .marker =>
    (entryWords (.marker (s.txn.number.getD 0) s.txn.staging.length) [], { c with markerGranted := true })

/-- A program of the commit is granted: the next cell of its run, the first cell of an attempt, or the open header of a
page switch, after which the commit relocates (R49, R52). -/
def State.grantCommit (s : State) (c : CommitRecord) : State :=
  match c.run with
  | some r => s.startCell .executor r
  | none =>
    if s.commitFits c then
      let a := s.attemptWords c
      let page := s.openPage.getD 0
      let r := s.reserve page a.1
      (r.2.setCommit (some { a.2 with
        commitPage := some page, granted := true, programmed := true, run := some r.1 })).startCell .executor r.1
    else
      match s.pageSwitch .executor with
      | some t =>
        t.setCommit (some { c with
          commitPage := t.openPage, granted := true, relocate := placedPositions c.items })
      | none =>
        if c.programmed then (s.failCommit c .storeFull).setDemand else (s.refuseCommit .storeFull).setDemand

/-! ### The apply (R11, R12, R56, R57, R104) -/

/-- A page on which an entry still stands. -/
def State.standing (s : State) (p : PageIx) : Bool :=
  decide ((s.page p).state ≠ .erased ∧ (s.page p).state ≠ .retired)

/-- The relocated copies of an identifier that still stand. -/
def State.copiesOf (s : State) (c : CommitRecord) (ident : Nat) : List Loc :=
  ((c.copies.filter (fun x => x.1 = ident)).map (fun x => x.2)).filter (fun l => s.standing l.page)

/-- One operation applied. -/
def State.applyOp (c : CommitRecord) (s : State) (x : StagedOp × CommitItem) : State :=
  match x.2.final, x.2.composed with
  | some loc, some made =>
    let ident := opIdent x.1
    let copies := s.copiesOf c ident
    let s :=
      match s.entryOf ident with
      | some e =>
        let bumps := bumpsOf e
        ((s.dropLive e).countSuperseded ident (e.loc :: bumps.map BumpLoc.loc)).putEntry
          { ident, gen := made.gen, loc, stale := e.stale + 1 + bumps.length + copies.length, body := opBody x.1 }
      | none => s.putEntry { ident, gen := made.gen, loc, stale := copies.length, body := opBody x.1 }
    (s.addLive loc.page (opCells x.1)).countSuperseded ident copies
  | _, _ => s

/-- The carry-list pairs a commit leaves: each page but the commit page that holds a relocated copy (R104). -/
def State.carryOf (s : State) (c : CommitRecord) (txn : Nat) : List CarryPair :=
  (((c.copies.map (fun x => x.2.page)).filter (fun p => s.standing p && decide (c.commitPage ≠ some p))).eraseDups).map
    (fun p => { page := p, txn })

/-- The marker has completed OK: the apply, and the reply OK (R56). -/
def State.applyCommit (s : State) (c : CommitRecord) : State :=
  let txn := s.txn.number.getD 0
  let count := s.txn.staging.length
  let t := (s.txn.staging.zip c.items).foldl (State.applyOp c) s
  let t := { t with carry := t.carry ++ s.carryOf c txn }
  ((t.dropCommit).endTxn).reply ([resultCode .ok] ++ beBytes 4 txn ++ beBytes 1 count)

/-! ### Completions (R50, R51, R53, R58) -/

/-- The commit goes on to its next program. -/
def State.continueCommit (s : State) (c : CommitRecord) : State :=
  (s.setCommit (some c)).request .executor (some .program)

/-- An attempt has completed OK at its run (R50, R52, R56). -/
def State.attemptDone (s : State) (c : CommitRecord) (r : Run) : State :=
  let c := { c with run := none }
  let loc : Loc := { page := r.page, cell := r.first }
  match c.target with
  | .marker => s.applyCommit c
  | .entry i =>
    let items := c.items.modify i (fun item => { item with final := some loc, finalStands := true })
    s.continueCommit { c with
      items, position := c.position + 1,
      stage := if c.position + 1 < items.length then .programming else .marking }
  | .relocate i =>
    let left : List (Nat × Loc) :=
      match c.items[i]?, s.txn.staging[i]? with
      | some item, some op =>
        match item.final with
        | some l => if item.finalStands then [(opIdent op, l)] else []
        | none => []
      | _, _ => []
    s.continueCommit { c with
      items := c.items.modify i (fun item => { item with final := some loc, finalStands := true }),
      relocate := c.relocate.drop 1, copies := c.copies ++ left }

/-- The failures of the entry or marker being programmed, one more counted (R51). -/
def CommitRecord.countFailure (c : CommitRecord) : CommitRecord × Nat :=
  match c.target with
  | .marker => ({ c with markerFailures := c.markerFailures + 1 }, c.markerFailures + 1)
  | .entry i =>
    ({ c with items := c.items.modify i (fun item => { item with failures := item.failures + 1 }) },
      (c.items[i]?.map (fun item => item.failures)).getD 0 + 1)
  | .relocate i =>
    ({ c with items := c.items.modify i (fun item => { item with failures := item.failures + 1 }) },
      (c.items[i]?.map (fun item => item.failures)).getD 0 + 1)

/-- R53: retries exhausted on a page. MEDIA is raised ahead of the reply. -/
def State.exhaustCommit (s : State) (failed : PageIx) : State :=
  ((((s.dropCommit).sealOpenPage).endTxn).raise (.media failed .programRetriesExhausted)).reply (bare .mediaFault)

/-- A commit whose transaction an ABANDON has ended stops here (R58). -/
def State.stopAbandoned (s : State) : State := (s.dropCommit).reply (bare .abandoned)

/-- A cell program of the commit has completed. -/
def State.commitCellDone (s : State) (c : CommitRecord) (outcome : ArrayOutcome) : State :=
  match c.run with
  | none => s
  | some r =>
    let r' : Run := { r with done := r.done + 1 }
    let whole := decide (r.words.length ≤ r'.done)
    match s.txn.state with
    | .committing =>
      match outcome with
      | .ok => if whole then s.attemptDone c r' else s.continueCommit { c with run := some r' }
      | .verifyFail =>
        let f := c.countFailure
        let s := s.faultRun r
        if f.2 < 3 then s.continueCommit { f.1 with run := none } else s.exhaustCommit r.page
    | _ =>
      (if whole && decide (outcome = .ok) then s else s.faultRun r).stopAbandoned

/-- The open header of a switch of the commit has completed. -/
def State.commitHeaderDone (s : State) (c : CommitRecord) : State :=
  match s.txn.state with
  | .committing => s.continueCommit c
  | _ => s.stopAbandoned

/-! ### ABANDON and the caution timer (R58, R61) -/

/-- The transaction of a commit before its marker grant is ended by an ABANDON; the commit stops at once unless one of
its programs is in flight (R58). -/
def State.abandonCommit (s : State) (c : CommitRecord) : State :=
  if s.flying .executor then s.request .executor none else (s.faultRunIfAny c.run).stopAbandoned

/-- The caution timer has expired during a commit (R61). -/
def State.cautionCommit (s : State) : State :=
  match s.executor.commit with
  | none => s
  | some c =>
    if s.txn.state = .committing ∧ c.markerGranted = false then (s.disown .executor).failCommit c .supplyLow else s

end Sys2Proof.Machine
end

