-- ==== Sys2Proof/Machine/Tallies.lean ====
section
/-! DEFINITION. The INCREMENT from its checks to its reply (R68 to R74). -/

namespace Sys2Proof.Machine

def State.setIncrement (s : State) (i : Option IncrementRecord) : State :=
  { s with executor := { s.executor with increment := i } }

/-- The reply fields of an INCREMENT answered OK, SATURATED or LIMIT: value and generation. -/
def incrementReply (r : Result) (value gen : Nat) : List Byte := [resultCode r] ++ beBytes 4 value ++ beBytes 4 gen

/-- The increment's record is discarded and a waiting request withdrawn. -/
def State.dropIncrement (s : State) : State := (s.setIncrement none).request .executor none

/-- The increment ends with a bare result; a run in programming ends early (R70, R73, R74). -/
def State.failIncrement (s : State) (i : IncrementRecord) (r : Result) : State :=
  ((s.faultRunIfAny i.run).dropIncrement).reply (bare r)

/-- Space admission of an increment (R70). -/
def State.admitIncrement (s : State) (i : IncrementRecord) : State :=
  if s.spaceAdmits i.need then (s.setIncrement (some { i with waiting := false })).request .executor (some .program)
  else (s.failIncrement i .storeFull).setDemand

/-- An INCREMENT that passes its checks 1 to 7: the wait, then admission (R70). -/
def State.beginIncrement (s : State) (ident delta need : Nat) : State :=
  let i : IncrementRecord :=
    { ident, delta, need, waiting := true, waitOver := false, composed := none, failures := 0, run := none }
  let s := s.setIncrement (some i)
  if s.mustWait then s else s.admitIncrement i

/-- The wait for the victim has ended (R70). -/
def State.resumeIncrement (s : State) (i : IncrementRecord) : State :=
  if s.store = .readOnly then s.failIncrement i .readOnly else s.admitIncrement i

/-- The entry an increment composes at its grant, from the directory as it stands (R69). -/
def composeIncrement (e : DirEntry) (delta : Nat) : Option IncrementEntry :=
  match e.body with
  | .tally value bumps =>
    let sum := value + delta
    let capped := min sum Config.maxWord
    if bumps.length < Config.maxBumps then
      some { isFold := false, gen := e.gen, ordinal := bumps.length + 1, value := capped,
             saturated := decide (Config.maxWord < sum),
             words := entryWords (.bump (bumps.length + 1) e.ident (capped - value) e.gen) [] }
    else
      some { isFold := true, gen := e.gen + 1, ordinal := 0, value := capped,
             saturated := decide (Config.maxWord < sum),
             words := entryWords (.tallyBase foldFlags e.ident 0 (e.gen + 1) capped) [] }
  | .blob _ => none
  | .tombstone => none

/-- The entry of the increment: as composed already, or composed now. -/
def State.incrementEntry (s : State) (i : IncrementRecord) : Option IncrementEntry :=
  match i.composed with
  | some e => some e
  | none => (s.entryOf i.ident).bind (fun e => composeIncrement e i.delta)

/-- A program of the increment is granted (R69, R73). -/
def State.grantIncrement (s : State) (i : IncrementRecord) : State :=
  match i.run with
  | some r => s.startCell .executor r
  | none =>
    match s.incrementEntry i with
    | none => s
    | some e =>
      if s.fits e.words.length then
        let r := s.reserve (s.openPage.getD 0) e.words
        (r.2.setIncrement (some { i with composed := some e, run := some r.1 })).startCell .executor r.1
      else
        match s.pageSwitch .executor with
        | some t => t
        | none => (s.failIncrement i .storeFull).setDemand

/-- The directory and the page table when the last cell of a fold has completed: the rows of R72 and R77. -/
def State.applyFold (s : State) (ident gen value : Nat) (loc : Loc) : State :=
  match s.entryOf ident with
  | none => s
  | some e =>
    let bumps := bumpsOf e
    (((s.dropLive e).countSuperseded ident (e.loc :: bumps.map BumpLoc.loc)).putEntry
      { e with gen, loc, stale := e.stale + 1 + bumps.length, body := .tally value [] }).addLive loc.page 2

/-- The directory and the page table when a bump has completed (R13, R66, R72). -/
def State.applyBump (s : State) (ident ordinal value : Nat) (loc : Loc) : State :=
  match s.entryOf ident with
  | none => s
  | some e =>
    (s.putEntry { e with body := .tally value (bumpsOf e ++ [{ ordinal, loc }]) }).addLive loc.page 1

/-- The last cell of the increment's entry has completed OK (R72). -/
def State.incrementDone (s : State) (i : IncrementRecord) (e : IncrementEntry) (loc : Loc) : State :=
  let t := if e.isFold then s.applyFold i.ident e.gen e.value loc else s.applyBump i.ident e.ordinal e.value loc
  (t.dropIncrement).reply (incrementReply (if e.saturated then .saturated else .ok) e.value e.gen)

/-- The third VERIFY_FAIL of the increment's entry (R73): MEDIA names the OPEN page, which is sealed. Where no page is OPEN it
names the page of the failure, which is the model's choice (log entry 29). -/
def State.exhaustIncrement (s : State) (failed : PageIx) : State :=
  let page := s.openPage.getD failed
  (((s.dropIncrement).sealOpenPage).raise (.media page .programRetriesExhausted)).reply (bare .mediaFault)

/-- The increment goes on to its next program. -/
def State.continueIncrement (s : State) (i : IncrementRecord) : State :=
  (s.setIncrement (some i)).request .executor (some .program)

/-- A cell program of the increment has completed (R72, R73). -/
def State.incrementCellDone (s : State) (i : IncrementRecord) (outcome : ArrayOutcome) : State :=
  match i.run, i.composed with
  | some r, some e =>
    match outcome with
    | .ok =>
      if r.words.length ≤ r.done + 1 then s.incrementDone i e { page := r.page, cell := r.first }
      else s.continueIncrement { i with run := some { r with done := r.done + 1 } }
    | .verifyFail =>
      let s := s.faultRun r
      if i.failures + 1 < 3 then s.continueIncrement { i with run := none, failures := i.failures + 1 }
      else s.exhaustIncrement r.page
  | _, _ => s

/-- The caution timer has expired during an increment (R74). -/
def State.cautionIncrement (s : State) : State :=
  match s.executor.increment with
  | none => s
  | some i => (s.disown .executor).failIncrement i .supplyLow

end Sys2Proof.Machine
end

