-- ==== Sys2Proof/Machine/Compacting.lean ====
section
/-! DEFINITION. The compaction walk: survey, copies, folds, drops, RELEASE and erase (R109 to R118). -/

namespace Sys2Proof.Machine

def State.setCompaction (s : State) (c : Compaction) : State := { s with compaction := c }

/-- What the engine works on and what it asks of the array. -/
def State.engineAsks (s : State) (a : Action) (op : Option RequestOp) : State :=
  ({ s with compaction := { s.compaction with action := a } }).request .compaction op

/-! ### The survey (R109) -/

/-- The distinct identifiers among the non-SELF versions of a transaction. -/
def identsOfTxn (entries : List Entry) (txn : Nat) : List Nat :=
  (entries.filterMap (fun e => match versionOf e with
    | some (ident, t, self) => if t = txn ∧ self = false then some ident else none
    | none => none)).eraseDups

/-- The victim holds a matching marker of the transaction (R109). -/
def markerMatches (entries : List Entry) (txn : Nat) : Bool :=
  entries.any (fun e => match e with
    | .marker t count => decide (t = txn ∧ count = (identsOfTxn entries txn).length)
    | _ => false)

/-- A survey record's mark (R109). -/
def surveyCommitted (entries : List Entry) (carry : List CarryPair) (victim : PageIx) (e : Entry) : Bool :=
  match versionOf e with
  | some (_, txn, self) => self || markerMatches entries txn || decide (({ page := victim, txn } : CarryPair) ∈ carry)
  | none => (entryIdent e).isSome

/-- The survey of a victim, from the content of its cells 2 on. The cells above its used cells, which the survey does not
read, are blank, and an entry may end in them: it is valid where its cells lie inside the page. The rule leaves open how
such an entry is judged (log entry 31). -/
def State.buildSurvey (s : State) (victim : PageIx) (words : List CellWord) : List SurveyRec :=
  let faulted := s.array.faulted.filter (fun f => f.page = victim)
  let found := judgeCells
    (fun cell => faulted.any (fun f => decide (f.first ≤ cell ∧ cell < f.first + f.count)))
    (words ++ List.replicate (126 - words.length) blankCell) 2 0
  let entries := found.map (fun x => x.2)
  found.map (fun x => { first := x.1, entry := x.2, committed := surveyCommitted entries s.carry victim x.2 })

/-! ### The walk (R110, R112, R113) -/

/-- What the walk does with a record. -/
inductive WalkChoice where
  | pass | count (ident : Nat) | drop (ident : Nat) | copy | tally (ident gen : Nat)
deriving DecidableEq, Repr

/-- A record is committed as the walk reaches it: marked so, or in the carry list by now (R110). -/
def State.committedNow (s : State) (victim : PageIx) (r : SurveyRec) : Bool :=
  r.committed ||
    (match versionOf r.entry with
    | some (_, txn, _) => decide (({ page := victim, txn } : CarryPair) ∈ s.carry)
    | none => false)

/-- The drop test of a tombstone at its directory location (R113). -/
def State.dropTest (s : State) (victim : PageIx) (e : DirEntry) : Bool :=
  decide ((s.compaction.survey.filter (fun r =>
    decide (entryIdent r.entry = some e.ident) && s.committedNow victim r &&
      decide (({ page := victim, cell := r.first } : Loc) ≠ e.loc))).length = e.stale)

/-- The first row of R110 that applies. -/
def State.walkChoice (s : State) (victim : PageIx) (r : SurveyRec) : WalkChoice :=
  match entryIdent r.entry with
  | none => .pass
  | some ident =>
    if s.committedNow victim r then
      match s.entryOf ident with
      | none => .pass
      | some e =>
        let here := decide (({ page := victim, cell := r.first } : Loc) = e.loc)
        match r.entry with
        | .blob .. => if here then .copy else .count ident
        | .tombstone .. => if here then (if s.dropTest victim e then .drop ident else .copy) else .count ident
        | .tallyBase .. => if here then .tally ident e.gen else .count ident
        | .bump ordinal _ _ gen =>
          if gen = e.gen ∧ ({ ordinal, loc := { page := victim, cell := r.first } } : BumpLoc) ∈ bumpsOf e then
            .tally ident e.gen
          else .count ident
        | .marker .. => .pass
        | .release .. => .pass
        | .formatMark => .pass
    else .pass

/-- The walk moves to the next record. -/
def Compaction.advance (c : Compaction) : Compaction :=
  { c with
    action := .none
    walk := match c.walk with
      | some i => if i + 1 < c.survey.length then some (i + 1) else none
      | none => none }

def State.advance (s : State) : State := { s with compaction := s.compaction.advance }

/-- A tombstone joins the drop candidates (R113). -/
def State.addDrop (s : State) (ident : Nat) (loc : Loc) : State :=
  { s with compaction := { s.compaction with drops := s.compaction.drops ++ [(ident, loc)] } }

/-- A COMMITTING transaction with a program granted stages this tally (R7, R112). -/
def State.foldBarred (s : State) (ident : Nat) : Bool :=
  decide (s.txn.state = .committing) && s.executor.commit.any (fun c => c.granted)
    && s.txn.staging.any (fun op => opIdent op = ident)

/-- The record at the walk position. -/
def Compaction.record (c : Compaction) : Option SurveyRec := c.walk.bind (fun i => c.survey[i]?)

/-- The record at the walk position belongs to a tally that R7 keeps from being folded now. -/
def State.recordBarred (s : State) : Bool :=
  (s.compaction.record.bind (fun r => entryIdent r.entry)).any s.foldBarred

/-- The walk is at END: phase RELEASE, and the RELEASE program is requested (R110, R116). -/
def State.startRelease (s : State) : State :=
  ({ s with compaction := { s.compaction with phase := .release, walk := none } }).engineAsks .release (some .program)

/-- The walk has found a tally's current base or bump (R112). -/
def State.walkTally (s : State) (ident gen : Nat) : State :=
  let settled := decide (ident ∈ s.compaction.folded)
  if !settled && s.foldBarred ident then s.engineAsks .awaitCommit none
  else
    let s := if settled then s else { s with compaction := { s.compaction with folded := s.compaction.folded ++ [ident] } }
    if gen ≤ Config.maxFoldGeneration ∧ settled = false then s.engineAsks (.fold none) (some .program)
    else s.engineAsks .readCopy (some .read)

/-- The walk from its position on, until a record needs the array or the RELEASE does (R110). -/
def walkOn : Nat → State → State
  | 0, s => s.startRelease
  | n + 1, s =>
    match s.compaction.walk, s.compaction.victim with
    | some i, some v =>
      match s.compaction.survey[i]? with
      | none => s.startRelease
      | some r =>
        match s.walkChoice v r with
        | .pass => walkOn n s.advance
        | .count ident => walkOn n (s.addVictimCount ident 1).advance
        | .drop ident =>
          walkOn n (s.addDrop ident { page := v, cell := r.first }).advance
        | .copy => s.engineAsks .readCopy (some .read)
        | .tally ident gen => s.walkTally ident gen
    | _, _ => s.startRelease

/-- The walk goes on. -/
def State.walk (s : State) : State := walkOn (s.compaction.survey.length + 1) s

/-- The walk moves past the record just settled and goes on. -/
def State.walkNext (s : State) : State := s.advance.walk

/-! ### Grants of the engine (R111, R112, R116, R117) -/

/-- A run of the engine is placed at the append point, or the grant becomes a page switch (R111, R115). -/
def State.placeEngineRun (s : State) (words : List CellWord) (a : Action) : State :=
  if s.fits words.length then
    let r := s.reserve (s.openPage.getD 0) words
    ({ r.2 with compaction := { r.2.compaction with
        action := a, run := some r.1, spend := r.2.compaction.spend + words.length } }).startCell .compaction r.1
  else
    match s.pageSwitch .compaction with
    | some t => t
    | none => s.starveWalk

/-- The fold of a tally composed from its directory entry (R77). -/
def composeFold (e : DirEntry) : FoldEntry :=
  let value := match e.body with
    | .tally value _ => value | .blob _ => 0 | .tombstone => 0
  { gen := e.gen + 1, value, words := entryWords (.tallyBase foldFlags e.ident 0 (e.gen + 1) value) [] }

/-- The fold the grant composes: none where the generation test of R15 fails. -/
def State.foldAtGrant (s : State) : Option FoldEntry :=
  match s.compaction.record with
  | none => none
  | some r =>
    match (entryIdent r.entry).bind s.entryOf with
    | none => none
    | some e => if e.gen = entryGen r.entry then some (composeFold e) else none

/-- The directory entry of the record at the walk position. -/
def State.recordEntry (s : State) : Option DirEntry :=
  (s.compaction.record.bind (fun r => entryIdent r.entry)).bind s.entryOf

/-- A composed fold still follows the directory: its identifier is a TALLY of the generation it was composed from (R15). -/
def State.foldStands (s : State) (f : FoldEntry) : Bool :=
  s.recordEntry.any (fun e => (match e.body with
    | .tally _ _ => true | .blob _ => false | .tombstone => false) && decide (e.gen + 1 = f.gen))

/-- A fold whose first cell has been granted and whose tally a commit has deleted or replaced since (R7, R15). -/
def State.foldLapsed (s : State) : Bool :=
  match s.compaction.action with
  | .fold (some f) => !s.foldStands f
  | _ => false

/-- A lapsed fold is not written on: its run ends early, and the walk moves past the record (R7, R15, R112; the end of the
run is the model's reading, log entry 28). A header cell that the fold has left stands; of a tally of value 0 a later mount,
which judges by content, finds it a whole entry (log entry 38). -/
def State.lapseFold (s : State) : State :=
  let s := s.faultRunIfAny s.compaction.run
  ({ s with compaction := { s.compaction with run := none, failures := 0 } }).walkNext

/-- The RELEASE entry: the victim's index and sequence number from the page table (R116, R188). -/
def State.releaseWords (s : State) (victim : PageIx) : List CellWord :=
  entryWords (.release victim.val ((s.page victim).sequence.getD 0)) []

/-- The array operation of the engine that its grant starts, a fold being one that has not lapsed. -/
def State.grantStep (s : State) : State :=
  let c := s.compaction
  match c.run with
  | some r => s.startCell .compaction r
  | none =>
    match c.action, c.victim with
    | .seal, _ =>
      match s.pageSwitch .compaction with
      | some t => t
      | none => ({ s with compaction := { s.compaction with action := .none } }).choose
    | .survey, some v =>
      let first := 2 + c.surveyed.length
      s.start .compaction (.read v first (min 16 ((s.page v).used - first)))
    | .readCopy, some v =>
      match c.record with
      | some r => s.start .compaction (.read v r.first (entryCells r.entry))
      | none => s
    | .copy words _, some _ => s.placeEngineRun words (.copy words true)
    | .fold (some f), some _ => s.placeEngineRun f.words (.fold (some f))
    | .fold none, some _ =>
      match s.foldAtGrant with
      | some f => s.placeEngineRun f.words (.fold (some f))
      | none => s.walkNext
    | .release, some v => s.placeEngineRun (s.releaseWords v) .release
    | .erase _, some v => s.start .compaction (.erase v (nextEraseCount (s.page v).eraseCount))
    | _, _ => s

/-- An array operation of the engine is granted. A fold begun before a commit of its tally is tested again (R7, R15). -/
def State.grantCompaction (s : State) : State := if s.foldLapsed then s.lapseFold else s.grantStep

/-! ### Completions of the engine -/

/-- The survey's words have been read; the last read builds the survey and begins the walk (R109). -/
def State.surveyRead (s : State) (victim : PageIx) (words : List CellWord) : State :=
  let read := s.compaction.surveyed ++ words
  let s := { s with compaction := { s.compaction with surveyed := read } }
  if 2 + read.length < (s.page victim).used then s.engineAsks .survey (some .read)
  else
    ({ s with compaction := { s.compaction with survey := s.buildSurvey victim read, walk := some 0, action := .none } }).walk

/-- The record to be copied has been read: the copy has SELF set, and a bump is copied byte for byte (R111, R188). -/
def State.copyRead (s : State) (words : List CellWord) : State :=
  match s.compaction.record with
  | none => s
  | some r =>
    s.engineAsks (.copy (if (versionOf r.entry).isSome then copyWords words else words) false) (some .program)

/-- A read of the engine has completed. -/
def State.compactionRead (s : State) (words : List CellWord) : State :=
  if s.compaction.stopping then s.abandonWalk
  else
    match s.compaction.action, s.compaction.victim with
    | .survey, some v => s.surveyRead v words
    | .readCopy, some _ => s.copyRead words
    | _, _ => s

/-- A copy of a BLOB, TOMBSTONE or TALLY_BASE has completed OK (R14, R79, R111). -/
def State.versionCopied (s : State) (ident cells : Nat) (original copy : Loc) : State :=
  match s.entryOf ident with
  | none => s
  | some e =>
    if e.loc = original then
      ((((s.putEntry { e with loc := copy, stale := e.stale + 1 }).addLive copy.page cells).subLive original.page cells)
        |>.countSuperseded ident [original])
    else s.addStale ident 1

/-- A copy of a BUMP has completed OK (R79). -/
def State.bumpCopied (s : State) (ident ordinal : Nat) (original copy : Loc) : State :=
  match s.entryOf ident with
  | none => s
  | some e =>
    match e.body with
    | .tally value bumps =>
      let old : BumpLoc := { ordinal, loc := original }
      if old ∈ bumps then
        (((s.putEntry { e with
            stale := e.stale + 1
            body := .tally value (bumps.map (fun b => if b = old then { ordinal, loc := copy } else b)) }).addLive
            copy.page 1).subLive original.page 1).countSuperseded ident [original]
      else s.addStale ident 1
    | .blob _ => s.addStale ident 1
    | .tombstone => s.addStale ident 1

/-- A copy has completed OK. -/
def State.copyDone (s : State) (victim : PageIx) (r : SurveyRec) (copy : Loc) : State :=
  let original : Loc := { page := victim, cell := r.first }
  match r.entry with
  | .bump ordinal ident _ _ => s.bumpCopied ident ordinal original copy
  | e =>
    match entryIdent e with
    | some ident => s.versionCopied ident (entryCells e) original copy
    | none => s

/-- A fold of the engine has completed OK (R15, R77, R112). The rules give no test at the completion: a fold whose tally a
commit has deleted or replaced since its grant is superseded, as a copy dead on arrival is (R14), which is the model's choice
and which no run reaches (log entry 28). -/
def State.foldDone (s : State) (r : SurveyRec) (f : FoldEntry) (loc : Loc) : State :=
  match entryIdent r.entry with
  | some ident => if s.foldStands f then s.applyFold ident f.gen f.value loc else s.addStale ident 1
  | none => s

/-- One drop candidate settled at the RELEASE (R17, R116). -/
def State.settleDrop (s : State) (d : Nat × Loc) : State :=
  match s.entryOf d.1 with
  | none => s
  | some e =>
    if isTombstone e ∧ e.loc = d.2 then
      let s := s.subLive d.2.page 1
      { s with
        directory := dropEntry s.directory d.1
        compaction := { s.compaction with
          victimCounts := s.compaction.victimCounts.filter (fun x => x.1 ≠ d.1) } }
    else s

/-- The RELEASE has completed OK (R116). -/
def State.releaseDone (s : State) : State :=
  let s := s.compaction.drops.foldl State.settleDrop s
  ({ s with compaction := { s.compaction with phase := .erase, drops := [] } }).engineAsks (.erase false) (some .erase)

/-- An entry of the engine stands whole at loc. -/
def State.engineEntryDone (s : State) (loc : Loc) : State :=
  let s := { s with compaction := { s.compaction with failures := 0, run := none } }
  match s.compaction.action, s.compaction.victim, s.compaction.record with
  | .copy _ _, some v, some r =>
    let s := s.copyDone v r loc
    if s.compaction.stopping then s.abandonWalk else s.walkNext
  | .fold (some f), some _, some r =>
    let s := s.foldDone r f loc
    if s.compaction.stopping then s.abandonWalk else s.walkNext
  | .release, some _, _ => s.releaseDone
  | _, _, _ => s

/-- A cell program of the engine has completed (R111, R114). -/
def State.compactionCellDone (s : State) (outcome : ArrayOutcome) : State :=
  match s.compaction.run with
  | none => s
  | some r =>
    match outcome with
    | .ok =>
      if r.words.length ≤ r.done + 1 then s.engineEntryDone { page := r.page, cell := r.first }
      else
        let s := { s with compaction := { s.compaction with run := some { r with done := r.done + 1 } } }
        if s.compaction.stopping then s.abandonWalk else s.request .compaction (some .program)
    | .verifyFail =>
      let s := s.faultRun r
      let s := { s with compaction := { s.compaction with run := none, failures := s.compaction.failures + 1 } }
      if 3 ≤ s.compaction.failures then s.exhaustWalk r.page
      else if s.compaction.stopping then s.abandonWalk
      else s.request .compaction (some .program)

/-- The engine chooses again with the supply NORMAL, and stays in SELECT otherwise (R107, R108). -/
def State.selectAgain (s : State) : State :=
  match s.supply.state with
  | .normal => s.choose
  | .caution => s
  | .cautionLong => s

/-- The open header of a switch of the engine has completed: it goes on with its entry, or chooses again (R91, R108). -/
def State.compactionHeaderDone (s : State) : State :=
  if s.compaction.stopping then s.abandonWalk
  else
    match s.compaction.action with
    | .none => s
    | .seal => ({ s with compaction := { s.compaction with action := .none } }).selectAgain
    | .survey => s
    | .readCopy => s
    | .copy _ _ => s.request .compaction (some .program)
    | .fold _ => s.request .compaction (some .program)
    | .awaitCommit => s
    | .release => s.request .compaction (some .program)
    | .erase _ => s

/-- The victim counts taken from the stale counts of their identifiers (R16). -/
def State.applyVictimCounts (s : State) : State :=
  { s with directory := s.directory.map (fun e =>
      { e with stale := e.stale - ((s.compaction.victimCounts.filter (fun x => x.1 = e.ident)).map (fun x => x.2)).sum }) }

/-- A victim is complete (R117, R118, R119). -/
def State.victimComplete (s : State) (reclaim : Nat) : State :=
  let s := ({ s with compaction := { s.compaction with
    runVictims := min (s.compaction.runVictims + 1) 255,
    runReclaimed := min (s.compaction.runReclaimed + reclaim) 65535,
    hostDemand := s.compaction.hostDemand - 1 } }).endWaits
  if s.store = .ready then s.enterSelect else s.clearDemands.endRun

/-- The victim's erase has completed OK (R117). -/
def State.victimErased (s : State) (v : PageIx) (count : Nat) : State :=
  let reclaim := (s.page v).used - 2 - s.compaction.spend
  ((s.becomeErased v count).applyVictimCounts).victimComplete reclaim

/-- The victim's second erase has ended VERIFY_FAIL (R118). -/
def State.victimRetired (s : State) (v : PageIx) : State :=
  let s := ((s.becomeRetired v).applyVictimCounts).raise (.media v .pageRetired)
  let s := if s.usableCount < Config.minUsablePages then s.markReadOnly else s
  s.victimComplete 0

/-- An erase of the engine has completed. -/
def State.compactionErased (s : State) (p : PageIx) (count : Nat) (outcome : ArrayOutcome) : State :=
  match s.compaction.action with
  | .erase second =>
    match outcome with
    | .ok => s.victimErased p count
    | .verifyFail => if second then s.victimRetired p else s.engineAsks (.erase true) (some .erase)
  | _ => s

/-- A walk that waits at a tally resumes once the transaction that keeps it from being folded has left COMMITTING. Another
transaction, or a commit with no program granted, does not hold it (R7, R112). -/
def State.resumeWalk (s : State) : State :=
  match s.compaction.action with
  | .awaitCommit => if s.recordBarred then s else s.walk
  | _ => s

end Sys2Proof.Machine
end

