-- ==== Sys2Proof/Machine/Mount.lean ====
section
/-! DEFINITION. The mount unit: READ, RESOLVE, ERASE and SETTLE (R123 to R138), and the start-up report (R169, R170). -/

namespace Sys2Proof.Machine

/-! ### READ (R123 to R125) -/

/-- The used extent: the cell after the highest one of 2 to 127 that is not blank, or 2 (R125). -/
def usedExtent (words : List CellWord) : Nat :=
  (words.zipIdx.filter (fun x => decide (2 ≤ x.2 ∧ x.1 ≠ blankCell))).foldl (fun m x => max m (x.2 + 1)) 2

/-- A page's class by its two header cells and the rest of its content (R124). -/
def classify (words : List CellWord) : PageClass :=
  let cell1 := words.getD 1 blankCell
  match wearCount (words.getD 0 blankCell) with
  | none => .pendingErase
  | some _ =>
    if cell1 = blankCell then (if (words.drop 2).all (fun w => w = blankCell) then .erased else .pendingErase)
    else if (openSequence cell1).isSome then .holdsEntries
    else .pendingErase

/-- What READ keeps of a page. At the close of a FORMAT every page but those it erased with OK is PENDING_ERASE
without regard to what it reads (R142). -/
def scanPage (closing : Option (List PageIx)) (page : PageIx) (words : List CellWord) : PageScan :=
  { page, wear := wearCount (words.getD 0 blankCell), sequence := openSequence (words.getD 1 blankCell),
    cls := if closing.any (fun erased => decide (page ∉ erased)) then .pendingErase else classify words,
    extent := usedExtent words, entries := judgeCells (fun _ => false) (words.drop 2) 2 0 }

/-! ### RESOLVE (R126 to R132) -/

/-- The RELEASE entries that count, as page and sequence number (R126). -/
def releasesOf (scans : List PageScan) : List (Nat × Nat) :=
  (scans.filter (fun x => x.sequence.isSome)).flatMap (fun x =>
    x.entries.filterMap (fun e => match e.2 with
      | .release victim sequence => some (victim, sequence)
      | _ => none))

/-- A page holds a valid FORMAT_MARK. -/
def holdsMark (x : PageScan) : Bool := x.entries.any (fun e => decide (e.2 = .formatMark))

/-- The FORMAT_MARKs that count: on pages holding entries (R126). -/
def marksOf (scans : List PageScan) : List PageScan := scans.filter (fun x => decide (x.cls = .holdsEntries) && holdsMark x)

/-- A page holding entries that a RELEASE or a FORMAT_MARK discards (R126). -/
def discardedBy (releases : List (Nat × Nat)) (marks : List PageScan) (x : PageScan) : Bool :=
  decide ((x.page.val, x.sequence.getD 0) ∈ releases) ||
    marks.any (fun m => decide (x.sequence.getD 0 ≤ m.sequence.getD 0))

/-- The classification after R126. -/
def afterDiscards (scans : List PageScan) : List PageScan :=
  scans.map (fun x =>
    if x.cls = .holdsEntries ∧ discardedBy (releasesOf scans) (marksOf scans) x then { x with cls := .pendingErase } else x)

/-- The order of the sweep: ascending sequence number, then ascending page index (R127). -/
def sweepBefore (x y : PageScan) : Bool :=
  decide (x.sequence.getD 0 < y.sequence.getD 0 ∨
    (x.sequence.getD 0 = y.sequence.getD 0 ∧ x.page.val ≤ y.page.val))

/-- x placed in a list by an order. -/
def insertBy (before : PageScan → PageScan → Bool) (x : PageScan) : List PageScan → List PageScan
  | [] => [x]
  | y :: rest => if before x y then x :: y :: rest else y :: insertBy before x rest

def sortBy (before : PageScan → PageScan → Bool) (xs : List PageScan) : List PageScan :=
  xs.foldr (insertBy before) []

/-- The kept pages in scan order. -/
def keptPages (scans : List PageScan) : List PageScan :=
  sortBy sweepBefore ((afterDiscards scans).filter (fun x => decide (x.cls = .holdsEntries)))

/-- An entry at its place in the sweep. -/
structure Swept where
  loc : Loc
  entry : Entry
deriving DecidableEq, Repr

/-- The valid entries of the kept pages in scan order (R127). -/
def sweepOf (kept : List PageScan) : List Swept :=
  kept.flatMap (fun x => x.entries.map (fun e => { loc := { page := x.page, cell := e.1 }, entry := e.2 }))

/-- The matching markers of the sweep, in order: the transaction and the marker's page (R128). seen holds the
transaction and identifier of each non-SELF version met so far. -/
def matchingMarkers : List (Nat × Nat) → List Swept → List (Nat × PageIx)
  | _, [] => []
  | seen, x :: rest =>
    match x.entry with
    | .marker txn count =>
      if count = ((seen.filter (fun p => p.1 = txn)).map (fun p => p.2)).eraseDups.length then
        (txn, x.loc.page) :: matchingMarkers seen rest
      else matchingMarkers seen rest
    | e =>
      match versionOf e with
      | some (ident, txn, false) => matchingMarkers (seen ++ [(txn, ident)]) rest
      | _ => matchingMarkers seen rest

def isCommitted (commits : List (Nat × PageIx)) (txn : Nat) : Bool := commits.any (fun c => c.1 = txn)

/-- The commit page of a transaction: its last matching marker's (R128). -/
def commitPageOf (commits : List (Nat × PageIx)) (txn : Nat) : Option PageIx :=
  ((commits.filter (fun c => c.1 = txn)).getLast?).map (fun c => c.2)

/-- An entry is a candidate: a BUMP, a SELF version, or a version of a committed transaction (R127, R128). -/
def isCandidate (commits : List (Nat × PageIx)) (x : Swept) : Bool :=
  match versionOf x.entry with
  | some (_, txn, self) => self || isCommitted commits txn
  | none => (entryIdent x.entry).isSome

/-- The torn transactions: a pending list or a disregarded marker, and never committed (R128). -/
def tornCount (commits : List (Nat × PageIx)) (sweep : List Swept) : Nat :=
  ((sweep.filterMap (fun x => match x.entry with
    | .marker txn _ => some txn
    | e => match versionOf e with
      | some (_, txn, false) => some txn
      | _ => none)).eraseDups.filter (fun t => !isCommitted commits t)).length

/-- The version candidate that is current for its identifier so far: the highest generation, the latest of those that
share it (R129); kept in ascending identifier order. -/
def placeCurrent (ident : Nat) (x : Swept) : List (Nat × Swept) → List (Nat × Swept)
  | [] => [(ident, x)]
  | (i, y) :: rest =>
    if ident < i then (ident, x) :: (i, y) :: rest
    else if ident = i then (if entryGen y.entry ≤ entryGen x.entry then (i, x) else (i, y)) :: rest
    else (i, y) :: placeCurrent ident x rest

/-- The current entry of each identifier (R129). -/
def currentEntries (candidates : List Swept) : List (Nat × Swept) :=
  candidates.foldl (fun acc x => match versionOf x.entry with
    | some (ident, _, _) => placeCurrent ident x acc
    | none => acc) []

/-- The current bumps of a tally: for each ordinal the latest of its generation, in ordinal order, with its delta (R130). -/
def currentBumps (candidates : List Swept) (ident gen : Nat) : List (BumpLoc × Nat) :=
  (List.range 32).filterMap (fun k =>
    ((candidates.filterMap (fun x => match x.entry with
      | .bump ordinal i delta g =>
        if ordinal = k + 1 ∧ i = ident ∧ g = gen then some (({ ordinal, loc := x.loc } : BumpLoc), delta) else none
      | _ => none)).getLast?))

/-- The directory entry formed from a current entry (R129 to R131). -/
def formEntry (candidates : List Swept) (c : Nat × Swept) : DirEntry :=
  let gen := entryGen c.2.entry
  let bumps := match c.2.entry with
    | .tallyBase .. => currentBumps candidates c.1 gen
    | _ => []
  let body := match c.2.entry with
    | .blob _ _ _ _ length => DirBody.blob length
    | .tallyBase _ _ _ _ value =>
      DirBody.tally (min (value + (bumps.map (fun b => b.2)).sum) Config.maxWord) (bumps.map (fun b => b.1))
    | _ => DirBody.tombstone
  let all := (candidates.filter (fun x => entryIdent x.entry = some c.1)).length
  { ident := c.1, gen, loc := c.2.loc, stale := all - 1 - bumps.length, body }

/-- The live cells of a page: those of the current entries and current bumps that stand on it (R131). -/
def liveOn (directory : List DirEntry) (p : PageIx) : Nat :=
  (directory.map (fun e =>
    (if e.loc.page = p then currentCells e else 0) + ((bumpsOf e).filter (fun b => b.loc.page = p)).length)).sum

/-- The carry list of the sweep (R131). -/
def carryFound (commits : List (Nat × PageIx)) (sweep : List Swept) : List CarryPair :=
  (sweep.filterMap (fun x => match versionOf x.entry with
    | some (_, txn, false) =>
      if isCommitted commits txn ∧ commitPageOf commits txn ≠ some x.loc.page then some { page := x.loc.page, txn } else none
    | _ => none)).eraseDups

/-- The transaction numbers of an entry that count for the next one (R134). -/
def numberOfEntry : Entry → Nat
  | .blob _ _ txn _ _ => txn
  | .tallyBase _ _ txn _ _ => txn
  | .tombstone _ _ txn _ => txn
  | .marker txn _ => txn
  | .bump .. => 0
  | .release .. => 0
  | .formatMark => 0

/-- The sequence number a RELEASE names (R134). -/
def releaseSequence : Entry → Nat
  | .release _ sequence => sequence
  | _ => 0

def highest (ns : List Nat) : Nat := ns.foldl max 0

/-- The pages whose content counts for the counters: every page, or at the close of a FORMAT the erased array, that is
the pages it erased with OK (R134, R142). An erased page may hold an open header of the format itself: that its number counts
by R134, against the 1 that R142 gives, is the model's choice (log entry 39). -/
def countedScans (closing : Option (List PageIx)) (scans : List PageScan) : List PageScan :=
  scans.filter (fun x => closing.all (fun erased => decide (x.page ∈ erased)))

/-- The counters of R134: the next sequence number, none when exhausted. -/
def nextSequenceFound (scans : List PageScan) : Option Nat :=
  let h := highest (scans.map (fun x => max (x.sequence.getD 0) (highest (x.entries.map (fun e => releaseSequence e.2)))))
  if h < Config.maxWord then some (h + 1) else none

/-- The counters of R134: the next transaction number. -/
def nextNumberFound (scans : List PageScan) : Nat :=
  min (highest (scans.map (fun x => highest (x.entries.map (fun e => numberOfEntry e.2)))) + 1) Config.maxWord

/-- What RESOLVE hands to SETTLE. -/
def resolve (closing : Option (List PageIx)) (scans : List PageScan) : MountResult :=
  let sweep := sweepOf (keptPages scans)
  let commits := matchingMarkers [] sweep
  let candidates := sweep.filter (isCandidate commits)
  let current := currentEntries candidates
  { directory := (current.take Config.directoryCapacity).map (formEntry candidates)
    carry := carryFound commits sweep
    nextSequence := nextSequenceFound (countedScans closing scans)
    nextNumber := nextNumberFound (countedScans closing scans)
    torn := min (tornCount commits sweep) 65535
    lastCommitted := highest (commits.map (fun c => c.1))
    formatMark := !(marksOf scans).isEmpty
    truncated := decide (Config.directoryCapacity < current.length) }

/-- The pages to erase, in the order of R133: those with no valid open header by index, then those with one by
sequence number, a FORMAT_MARK's page after another that shares its number. -/
def eraseOrder (scans : List PageScan) : List PageIx :=
  let pending := (afterDiscards scans).filter (fun x => decide (x.cls = .pendingErase))
  let before (x y : PageScan) : Bool :=
    match x.sequence, y.sequence with
    | none, none => decide (x.page.val ≤ y.page.val)
    | none, some _ => true
    | some _, none => false
    | some m, some n => decide (m < n ∨ (m = n ∧ (holdsMark x = false ∨ holdsMark y = true)))
  (sortBy before pending).map (fun x => x.page)

/-- The erase count every mount erase supplies: the largest in any valid wear header (R133). -/
def mountEraseCount (scans : List PageScan) : Nat := highest (scans.map (fun x => x.wear.getD 0))

/-- A page's record after RESOLVE. Kept pages stand as SEALED until SETTLE considers one for OPEN (R135). What a page to be
erased holds beside its erase count is the model's choice (log entry 33). -/
def resolvedRec (directory : List DirEntry) (supplied : Nat) (x : PageScan) : PageRec :=
  match x.cls with
  | .pendingErase =>
    { state := .pendingErase, eraseCount := x.wear.getD supplied, sequence := none, used := 2, live := 0 }
  | .erased => { state := .erased, eraseCount := x.wear.getD supplied, sequence := none, used := 2, live := 0 }
  | .holdsEntries =>
    { state := .sealed, eraseCount := x.wear.getD supplied, sequence := x.sequence, used := x.extent,
      live := liveOn directory x.page }

def State.setMount (s : State) (m : Option MountRecord) : State := { s with mount := m }

/-! ### SETTLE (R134 to R137) -/

/-- The kept page considered for OPEN: the highest sequence number, the highest index among those sharing it (R135). -/
def State.openCandidate (s : State) : Option PageIx :=
  (s.pagesIn .sealed).foldl
    (fun best p => match best with
      | none => some p
      | some q => if (s.page q).sequence.getD 0 ≤ (s.page p).sequence.getD 0 then some p else some q) none

/-- The OPEN page and its append point are set (R135). -/
def State.settlePages (s : State) : State :=
  match s.openCandidate with
  | some p =>
    if (s.page p).used < 128 then
      let s := s.setPage p { s.page p with state := .opened }
      { s with array := { s.array with appendPoint := some (s.page p).used } }
    else { s with array := { s.array with appendPoint := none } }
  | none => { s with array := { s.array with appendPoint := none } }

/-- The store state of R136. -/
def State.decideStore (s : State) (truncated : Bool) : StoreState :=
  if s.usableCount < Config.minUsablePages ∨ truncated = true ∨ s.array.nextSequence = none then .readOnly else .ready

/-- The mount summary (R137). -/
def State.summary (s : State) (m : MountRecord) (r : MountResult) : Summary :=
  { store := s.store, erasedPages := s.erasedCount, openPages := s.countIn .opened, sealedPages := s.countIn .sealed,
    retiredPages := s.countIn .retired, pagesErased := m.erasedCount, pagesRetired := m.retiredCount, torn := r.torn,
    lastCommitted := r.lastCommitted, liveRecords := s.directory.length - s.tombstoneCount, tombstones := s.tombstoneCount,
    formatMark := r.formatMark, truncated := r.truncated }

/-- The results become the ones the device works from (R137, step 1). -/
def State.presentMount (s : State) (r : MountResult) : State :=
  let s := { s with
    directory := r.directory
    carry := r.carry
    txn := { s.txn with nextNumber := r.nextNumber }
    array := { s.array with nextSequence := r.nextSequence, faulted := [] } }
  let s := s.settlePages
  { s with store := s.decideStore r.truncated, mount := none }

/-- The start-up report is built and START is raised, then a deferred SUPPLY notice (R169, R170). -/
def State.raiseStart (s : State) (summary : Summary) : State :=
  let report : Report := { cause := s.notices.currentCause, earlier := s.notices.earlierCauses, summary }
  let s := { s with notices := { s.notices with report, startAcknowledged := false } }
  let t := s.raise (.start report)
  if s.notices.deferred then
    { t with notices := { t.notices with deferred := false } }.raise (.supply .cautionLongBegin)
  else t

/-- The FORMAT has closed: the report's summary is replaced and the FORMAT answered (R142, R170). -/
def State.closeFormat (s : State) (summary : Summary) : State :=
  let s := { s with
    notices := { s.notices with report := { s.notices.report with summary } }
    executor := { s.executor with format := none } }
  s.reply ([resultCode .ok] ++ beBytes 1 s.usableCount)

/-- The automatic demand as the end of a mount sets it (R105, R137). -/
def State.mountDemand (s : State) : State :=
  if s.erasedCount < 2 ∨ 64 < s.tombstoneCount then
    { s with compaction := { s.compaction with automaticDemand := true } }
  else s

/-- The event that ends SETTLE (R137). That the summary counts the pages before a run begun here takes its victim is the
model's choice (log entry 34). -/
def State.settleMount (s : State) (m : MountRecord) (r : MountResult) : State :=
  let s := (s.presentMount r).mountDemand
  let summary := s.summary m r
  let s := match m.closing with
    | none => s.raiseStart summary
    | some _ => s.closeFormat summary
  s.beginRun

/-- The next erase of the ERASE phase, or SETTLE (R133). -/
def State.mountNext (s : State) (m : MountRecord) : State :=
  match m.toErase, m.result with
  | _ :: _, _ => (s.setMount (some m)).request .mount (some .erase)
  | [], some r => s.settleMount m r
  | [], none => s.setMount (some m)

/-- READ has ended: RESOLVE, then the first erase or SETTLE (R126 to R133). -/
def State.resolveMount (s : State) (m : MountRecord) : State :=
  let r := resolve m.closing m.scans
  let supplied := mountEraseCount m.scans
  let s := (afterDiscards m.scans).foldl (fun s x => s.setPage x.page (resolvedRec r.directory supplied x)) s
  s.mountNext { m with result := some r, toErase := eraseOrder m.scans, eraseCount := supplied }

/-! ### The mount's array operations -/

/-- A mount begins with its READ phase (R123). -/
def State.beginMount (s : State) (closing : Option (List PageIx)) : State :=
  (s.setMount (some (MountRecord.start closing))).request .mount (some .read)

/-- An operation of the mount unit is granted: 8 reads of 16 cells per page, then the erases (R123, R133). -/
def State.grantMount (s : State) : State :=
  match s.mount with
  | none => s
  | some m =>
    match m.toErase with
    | p :: _ => s.start .mount (.erase p m.eraseCount)
    | [] => s.start .mount (.read (Fin.ofNat 32 (m.readIndex / 8)) (m.readIndex % 8 * 16) 16)

/-- A read of the mount has completed. -/
def State.mountRead (s : State) (words : List CellWord) : State :=
  match s.mount with
  | none => s
  | some m =>
    let got := m.pageWords ++ words
    let m :=
      if m.readIndex % 8 = 7 then
        { m with readIndex := m.readIndex + 1, pageWords := [],
                 scans := m.scans ++ [scanPage m.closing (Fin.ofNat 32 (m.readIndex / 8)) got] }
      else { m with readIndex := m.readIndex + 1, pageWords := got }
    if m.readIndex < 256 then (s.setMount (some m)).request .mount (some .read) else s.resolveMount m

/-- An erase of the mount has completed (R133). -/
def State.mountErased (s : State) (p : PageIx) (count : Nat) (outcome : ArrayOutcome) : State :=
  match s.mount with
  | none => s
  | some m =>
    match outcome with
    | .ok =>
      (s.becomeErased p count).mountNext
        { m with toErase := m.toErase.drop 1, retried := false, erasedCount := m.erasedCount + 1 }
    | .verifyFail =>
      if m.retried then
        (s.becomeRetired p).mountNext
          { m with toErase := m.toErase.drop 1, retried := false, retiredCount := m.retiredCount + 1 }
      else s.mountNext { m with retried := true }

end Sys2Proof.Machine
end

