-- ==== Sys2Proof/Machine/Formatting.lean ====
section
/-! DEFINITION. FORMAT from its checks to its closing mount (R139 to R142). -/

namespace Sys2Proof.Machine

def State.setFormat (s : State) (f : Option FormatRecord) : State :=
  { s with executor := { s.executor with format := f } }

/-- The last erase of R141 has completed, or there was none: the store is emptied and the closing mount begins (R142). With the
directory go the stale counts that the format's erases left as they stood (log entry 41). -/
def State.closeErases (s : State) (f : FormatRecord) : State :=
  let s := s.setFormat (some { f with stage := .closing, run := none })
  let s := { s with
    directory := []
    carry := []
    compaction := { s.compaction with automaticDemand := false, hostDemand := 0 }
    txn := { s.txn with nextNumber := 1 }
    array := { s.array with nextSequence := some 1 } }
  s.beginMount (some f.erased)

/-- The format erases this page next. -/
def State.formatErase (s : State) (f : FormatRecord) (stage : FormatStage) : State :=
  (s.setFormat (some { f with stage, retried := false, run := none })).request .executor (some .erase)

/-- The pages R141 still has to erase before the mark's page: not RETIRED, not erased by this format, not the mark's. -/
def State.formatPages (s : State) (f : FormatRecord) : List PageIx :=
  allPages.filter (fun p => decide ((s.page p).state ≠ .retired ∧ p ∉ f.erased ∧ f.mark ≠ some p))

/-- The next erase of R141: the other pages by index, the mark's page last. -/
def State.nextFormatErase (s : State) (f : FormatRecord) : State :=
  match s.formatPages f, f.mark with
  | p :: _, _ => s.formatErase f (.erasing p)
  | [], some m => if f.markErased then s.closeErases f else s.formatErase f (.erasing m)
  | [], none => s.closeErases f

/-- The fallback's next page: the lowest-index one not RETIRED and not yet erased by this format; without one the
format goes on to R141 without a mark (R140). -/
def State.nextFallback (s : State) (f : FormatRecord) : State :=
  match (s.formatPages f) with
  | p :: _ => s.formatErase { f with mark := none } (.fallbackErase p)
  | [] => s.nextFormatErase f

/-- A FORMAT that passes its checks: the store is FORMATTING, the engine proceeds by its phase, and the mark's program
is requested (R120, R139, R140). -/
def State.beginFormat (s : State) : State :=
  let f : FormatRecord :=
    { previous := s.store, stage := .marking, erased := [], fallback := none, mark := none, markErased := false,
      retried := false, failures := 0, run := none }
  let s := ({ s with store := .formatting }).setFormat (some f)
  let s := s.stopEngine
  match s.formatPages f with
  | [] => s.closeErases f
  | _ :: _ => s.request .executor (some .program)

/-- A program of the format is granted: the mark, or the page switch or fallback that makes room for it (R140). -/
def State.grantMark (s : State) (f : FormatRecord) : State :=
  if s.fits 1 then
    let r := s.reserve (s.openPage.getD 0) (entryWords .formatMark [])
    (r.2.setFormat (some { f with run := some r.1 })).startCell .executor r.1
  else
    match f.fallback with
    | some p =>
      let s := s.setFormat (some { f with fallback := none })
      match s.array.nextSequence with
      | some n => s.switchTo .executor p n
      | none => (s.openFor .executor p Config.maxWord).lowWater
    | none =>
      match s.pageSwitch .executor with
      | some t => t
      | none => s.nextFallback f

/-- An operation of the format is granted. -/
def State.grantFormat (s : State) (f : FormatRecord) : State :=
  match f.stage with
  | .marking => s.grantMark f
  | .fallbackErase p => s.start .executor (.erase p (nextEraseCount (s.page p).eraseCount))
  | .erasing p => s.start .executor (.erase p (nextEraseCount (s.page p).eraseCount))
  | .closing => s

/-- A cell program of the format has completed: the mark stands, is retried, or has failed for the third time (R140). That the
failures are counted anew on the next fallback page is the model's choice (log entry 32). -/
def State.formatCellDone (s : State) (f : FormatRecord) (outcome : ArrayOutcome) : State :=
  match f.run with
  | none => s
  | some r =>
    match outcome with
    | .ok => s.nextFormatErase { f with run := none, mark := some r.page }
    | .verifyFail =>
      let s := s.faultRun r
      let f := { f with run := none, failures := f.failures + 1 }
      if f.failures < 3 then (s.setFormat (some f)).request .executor (some .program)
      else
        let s := ((s.setFormat (some f)).sealOpenPage).raise (.media r.page .programRetriesExhausted)
        if f.erased.isEmpty then
          ({ s.setFormat none with store := f.previous }).reply (bare .mediaFault)
        else s.nextFallback { f with failures := 0 }

/-- The open header of a switch of the format has completed. -/
def State.formatHeaderDone (s : State) : State := s.request .executor (some .program)

/-- The format goes on after a page's last erase attempt. -/
def State.formatPageDone (s : State) (f : FormatRecord) (p : PageIx) : State :=
  let f := { f with markErased := f.markErased || decide (f.mark = some p) }
  match f.stage with
  | .fallbackErase _ =>
    if p ∈ f.erased then
      (s.setFormat (some { f with stage := .marking, fallback := some p })).request .executor (some .program)
    else s.nextFallback f
  | .marking => s
  | .erasing _ => s.nextFormatErase f
  | .closing => s

/-- An erase of the format has completed (R141). R16 gives no reduction of the stale counts for a page that a FORMAT erases or
retires: the model leaves them as they stand until R142 empties the directory, though R9 has them hold at all times except during
mount, which is its choice (log entry 41). -/
def State.formatErased (s : State) (f : FormatRecord) (p : PageIx) (count : Nat) (outcome : ArrayOutcome) : State :=
  match outcome with
  | .ok =>
    (s.becomeErased p count).formatPageDone
      { f with retried := false, erased := f.erased.filter (fun q => q ≠ p) ++ [p] } p
  | .verifyFail =>
    if f.retried then
      ((s.becomeRetired p).raise (.media p .pageRetired)).formatPageDone
        { f with retried := false, erased := f.erased.filter (fun q => q ≠ p) } p
    else (s.setFormat (some { f with retried := true })).request .executor (some .erase)

end Sys2Proof.Machine
end

