-- ==== Sys2Proof/Machine/Executing.lean ====
section
/-! DEFINITION. The request executor: each queued request as the executor takes it (R18 to R20, R24, R27 to R35, R44,
R68, R100, R106, R139, R151, R170, R184). -/

namespace Sys2Proof.Machine

/-! ### Read-only requests -/

/-- READ (R18, R19): from the directory, or a read of the array for a BLOB. -/
def State.takeRead (s : State) (payload : List Byte) : State :=
  match readIdent payload with
  | none => s.reply (bare .badArgs)
  | some ident =>
    match s.entryOf ident with
    | none => s.reply (bare .notFound)
    | some e =>
      match e.body with
      | .tombstone => s.reply (bare .notFound)
      | .tally value _ => s.reply ([resultCode .ok, bodyCode e.body] ++ beBytes 4 e.gen ++ beBytes 4 value)
      | .blob _ => ({ s with executor := { s.executor with blobRead := some ident } }).request .executor (some .read)

/-- The read of a BLOB is granted at the location the directory then holds (R19). -/
def State.grantBlobRead (s : State) (ident : Nat) : State :=
  match s.entryOf ident with
  | none => s
  | some e => s.start .executor (.read e.loc.page e.loc.cell (currentCells e))

/-- The content read is the entry the directory names (R19, R187). -/
def blobAgrees (e : DirEntry) (words : List CellWord) : Bool :=
  let w := words.headD blankCell
  decide (cellByte w 0 = 0x01) && checkMatches words && decide (cellField w 2 2 = e.ident) && decide (cellField w 8 4 = e.gen)

/-- The read of a BLOB has completed (R19). -/
def State.blobRead (s : State) (ident : Nat) (words : List CellWord) : State :=
  let s := { s with executor := { s.executor with blobRead := none } }
  match s.entryOf ident with
  | none => s.reply (bare .mediaFault)
  | some e =>
    match e.body with
    | .blob length =>
      if blobAgrees e words then
        s.reply ([resultCode .ok, bodyCode e.body] ++ beBytes 4 e.gen ++ beBytes 1 length
          ++ ((words.drop 1).flatMap cellBytes).take length)
      else s.reply (bare .mediaFault)
    | .tally _ _ => s.reply (bare .mediaFault)
    | .tombstone => s.reply (bare .mediaFault)

/-- LIST (R20). -/
def State.takeList (s : State) (payload : List Byte) : State :=
  match readListArgs payload with
  | none => s.reply (bare .badArgs)
  | some (first, count) => s.reply (listReply s.directory first count)

/-- WEAR (R100). -/
def State.takeWear (s : State) (payload : List Byte) : State :=
  match readWearArgs payload with
  | none => s.reply (bare .badArgs)
  | some (first, count) => s.reply (s.wearReply first count)

/-- GET_REPORT (R170). -/
def State.takeGetReport (s : State) (payload : List Byte) : State :=
  match readEmpty payload with
  | none => s.reply (bare .badArgs)
  | some () => s.reply ([resultCode .ok] ++ reportBytes s.notices.report)

/-! ### BEGIN and the STAGE requests -/

/-- BEGIN (R23, R24). -/
def State.takeBegin (s : State) (payload : List Byte) : State :=
  match readEmpty payload with
  | none => s.reply (bare .badArgs)
  | some () =>
    if s.txn.state ≠ .none then s.reply (bare .txnOpen)
    else if s.store = .readOnly then s.reply (bare .readOnly)
    else if s.supply.state = .cautionLong then s.reply (bare .supplyLow)
    else if s.txn.nextNumber = Config.maxWord then s.reply (bare .limit)
    else
      let n := s.txn.nextNumber
      ({ s with txn := { state := .opened, number := some n, idleRunning := true, nextNumber := n + 1, staging := [] } }).reply
        ([resultCode .ok] ++ beBytes 4 n)

/-- The kinds of the effective view (R26). -/
inductive View where
  | absent | tombstone | blob | tally
deriving DecidableEq, Repr

/-- The staged operation on an identifier. -/
def stagedOn (ops : List StagedOp) (ident : Nat) : Option StagedOp := ops.find? (fun op => opIdent op = ident)

/-- The view of a directory entry alone. -/
def directoryView : Option DirEntry → View
  | none => .absent
  | some e => match e.body with
    | .blob _ => .blob | .tally _ _ => .tally | .tombstone => .tombstone

/-- The effective view of an identifier (R26). -/
def State.effectiveView (s : State) (ident : Nat) : View :=
  match stagedOn s.txn.staging ident with
  | some (.write _ _) => .blob
  | some (.createTally _ _) => .tally
  | some (.delete _) => .tombstone
  | none => directoryView (s.entryOf ident)

/-- What a STAGE request's kind check decides. -/
inductive StageEffect where
  | refuse (r : Result) | add | replace | remove
deriving DecidableEq, Repr

/-- The kind check of STAGE_WRITE (R28). -/
def State.writeEffect (s : State) (ident : Nat) : StageEffect :=
  match s.effectiveView ident with
  | .tally => .refuse .wrongKind
  | _ => if (stagedOn s.txn.staging ident).isSome then .replace else .add

/-- The kind check of STAGE_TALLY (R29). -/
def State.tallyEffect (s : State) (ident : Nat) : StageEffect :=
  match s.effectiveView ident with
  | .blob => .refuse .wrongKind
  | .tally => .refuse .wrongKind
  | _ =>
    if directoryView (s.entryOf ident) = .tally then .refuse .wrongKind
    else if (stagedOn s.txn.staging ident).isSome then .replace else .add

/-- The kind check of STAGE_DELETE (R32). -/
def State.deleteEffect (s : State) (ident : Nat) : StageEffect :=
  match s.effectiveView ident with
  | .absent => .refuse .notFound
  | .tombstone => .refuse .notFound
  | _ =>
    if (stagedOn s.txn.staging ident).isNone then .add
    else match directoryView (s.entryOf ident) with
      | .blob => .replace
      | .tally => .replace
      | _ => .remove

/-- The staging list after an accepted request (R35). -/
def State.acceptStage (s : State) (ops : List StagedOp) : State :=
  ({ s with txn := { s.txn with staging := ops, idleRunning := true } }).reply
    ([resultCode .ok] ++ beBytes 1 ops.length ++ beBytes 2 (stagedBytes ops))

/-- Checks 7 and 8 of R27 on the list as it would stand (R33, R34). -/
def State.capStage (s : State) (ident : Nat) (ops : List StagedOp) : State :=
  if (s.entryOf ident).any (fun e => Config.maxWord ≤ e.gen) then s.reply (bare .limit)
  else if Config.stagingOperations < ops.length ∨ Config.stagingBytes < stagedBytes ops then s.reply (bare .stageFull)
  else s.acceptStage ops

/-- Checks 2 to 8 of R27, and the effect on the list (R30, R33 to R35). -/
def State.stage (s : State) (number ident : Nat) (op : StagedOp) (effect : StageEffect) : State :=
  if s.txn.state ≠ .opened then s.reply (bare .noTxn)
  else if s.txn.number ≠ some number then s.reply (bare .wrongTxn)
  else if s.store ≠ .ready then s.reply (bare .readOnly)
  else if s.supply.state = .cautionLong then s.reply (bare .supplyLow)
  else
    match effect with
    | .refuse r => s.reply (bare r)
    | .add => s.capStage ident (s.txn.staging ++ [op])
    | .replace => s.capStage ident (s.txn.staging.map (fun x => if opIdent x = ident then op else x))
    | .remove => s.acceptStage (s.txn.staging.filter (fun x => opIdent x ≠ ident))

/-- STAGE_WRITE (R28). -/
def State.takeStageWrite (s : State) (payload : List Byte) : State :=
  match readStageWrite payload with
  | none => s.reply (bare .badArgs)
  | some (number, ident, data) => s.stage number ident (.write ident data) (s.writeEffect ident)

/-- STAGE_DELETE (R32). -/
def State.takeStageDelete (s : State) (payload : List Byte) : State :=
  match readStageDelete payload with
  | none => s.reply (bare .badArgs)
  | some (number, ident) => s.stage number ident (.delete ident) (s.deleteEffect ident)

/-- STAGE_TALLY (R29). -/
def State.takeStageTally (s : State) (payload : List Byte) : State :=
  match readStageTally payload with
  | none => s.reply (bare .badArgs)
  | some (number, ident, initial) => s.stage number ident (.createTally ident initial) (s.tallyEffect ident)

/-! ### COMMIT, INCREMENT, COMPACT and FORMAT -/

/-- COMMIT (R44). -/
def State.takeCommit (s : State) (payload : List Byte) : State :=
  match readNumber payload with
  | none => s.reply (bare .badArgs)
  | some number =>
    if s.txn.state ≠ .opened then s.reply (bare .noTxn)
    else if s.txn.number ≠ some number then s.reply (bare .wrongTxn)
    else if s.store = .readOnly then s.reply (bare .readOnly)
    else if s.supply.state = .cautionLong then s.reply (bare .supplyLow)
    else s.beginCommit

/-- INCREMENT (R68). -/
def State.takeIncrement (s : State) (payload : List Byte) : State :=
  match readIncrement payload with
  | none => s.reply (bare .badArgs)
  | some (ident, delta) =>
    if s.store ≠ .ready then s.reply (bare .readOnly)
    else if s.supply.state = .cautionLong then s.reply (bare .supplyLow)
    else
      match s.entryOf ident with
      | none => s.reply (bare .notFound)
      | some e =>
        match e.body with
        | .tombstone => s.reply (bare .notFound)
        | .blob _ => s.reply (bare .wrongKind)
        | .tally value bumps =>
          if value = Config.maxWord then s.reply (incrementReply .saturated value e.gen)
          else if Config.maxBumps ≤ bumps.length ∧ Config.maxFoldGeneration < e.gen then
            s.reply (incrementReply .limit value e.gen)
          else s.beginIncrement ident delta (if Config.maxBumps ≤ bumps.length then 2 else 1)

/-- COMPACT (R106). The reply is produced before the run begins. -/
def State.takeCompact (s : State) (payload : List Byte) : State :=
  match readVictims payload with
  | none => s.reply (bare .badArgs)
  | some n =>
    if s.store = .readOnly then s.reply (bare .readOnly)
    else if s.supply.state = .cautionLong then s.reply (bare .supplyLow)
    else
      let demand := min 8 (s.compaction.hostDemand + n)
      let s := { s with compaction := { s.compaction with hostDemand := demand } }
      (s.reply ([resultCode .ok] ++ beBytes 1 demand)).beginRun

/-- FORMAT (R139). -/
def State.takeFormat (s : State) (payload : List Byte) : State :=
  match readEmpty payload with
  | none => s.reply (bare .badArgs)
  | some () =>
    if s.txn.state ≠ .none then s.reply (bare .txnOpen)
    else if s.supply.state = .cautionLong then s.reply (bare .supplyLow)
    else s.beginFormat

/-! ### Taking requests (R151) -/

/-- The request taken, by its kind. An immediate kind does not stand in the queue. -/
def State.execute (s : State) (r : Request) : State :=
  match r.kind with
  | .read => s.takeRead r.payload
  | .list => s.takeList r.payload
  | .wear => s.takeWear r.payload
  | .getReport => s.takeGetReport r.payload
  | .beginTxn => s.takeBegin r.payload
  | .stageWrite => s.takeStageWrite r.payload
  | .stageDelete => s.takeStageDelete r.payload
  | .stageTally => s.takeStageTally r.payload
  | .commit => s.takeCommit r.payload
  | .increment => s.takeIncrement r.payload
  | .compact => s.takeCompact r.payload
  | .format => s.takeFormat r.payload
  | .status => s
  | .abandon => s
  | .ackNotice => s
  | .pollNotice => s
  | .restart => s

/-- The executor is free (R151); while the device is restarting it takes nothing (R178). -/
def State.executorFree (s : State) : Bool :=
  s.mounted && s.executor.executing.isNone && s.restarting.isNone

/-- The request leaves the queue and becomes the executing request. -/
def State.take (s : State) (r : Request) (rest : List Request) : State :=
  ({ s with
    link := { s.link with queue := rest }
    executor := { s.executor with executing := some r } }).execute r

/-- The executor takes requests from the head of the queue for as long as it is free. -/
def takeRequests : Nat → State → State
  | 0, s => s
  | n + 1, s =>
    if s.executorFree then
      match s.link.queue with
      | [] => s
      | r :: rest => takeRequests n (s.take r rest)
    else s

/-- What the executor takes in the event that may have freed it or joined a request (R151). -/
def State.runExecutor (s : State) : State := takeRequests s.link.queue.length s

end Sys2Proof.Machine
end

