-- ==== Sys2Proof/Machine/Link.lean ====
section
/-! DEFINITION. The link controller: the receiver, the request handler, the immediate requests, the transmit queue
(R145 to R160, R166, R167), and the meanings of the request rows and of the rows of the line. -/

namespace Sys2Proof.Machine

/-! ### Immediate requests (R149, R183) -/

/-- STATUS (R158). -/
def State.handleStatus (s : State) (f : Frame) : State :=
  match readStatusFlag f.payload with
  | none => s.answer f (bare .badArgs)
  | some clear =>
    let payload := [resultCode .ok] ++ s.statusRecord
    (if clear then { s with link := { s.link with discarded := 0 } } else s).answer f payload

/-- ABANDON (R39, R58, R59). The ABANDON is answered before the reply of a commit that stops at once. -/
def State.handleAbandon (s : State) (f : Frame) : State :=
  match readNumber f.payload with
  | none => s.answer f (bare .badArgs)
  | some number =>
    match s.txn.state with
    | .none => s.answer f (bare .noTxn)
    | .opened => if s.txn.number = some number then s.endTxn.answer f (bare .ok) else s.answer f (bare .wrongTxn)
    | .committing =>
      if s.txn.number = some number then
        match s.executor.commit with
        | some c =>
          if c.markerGranted then s.answer f (bare .tooLate) else (s.endTxn.answer f (bare .ok)).abandonCommit c
        | none => s.endTxn.answer f (bare .ok)
      else s.answer f (bare .wrongTxn)

/-- The notices up to and including a number; none when no notice has it. -/
def noticesThrough : List Notice → Nat → Option (List Notice)
  | [], _ => none
  | n :: rest, number => if n.number = number then some [n] else (noticesThrough rest number).map (fun xs => n :: xs)

def isStart (n : Notice) : Bool :=
  match n.content with
  | .start _ => true
  | _ => false

/-- ACK_NOTICE (R167): the notice and every one before it leave the queue, and their frames the outgoing list. -/
def State.handleAckNotice (s : State) (f : Frame) : State :=
  match readNoticeNumber f.payload with
  | none => s.answer f (bare .badArgs)
  | some number =>
    match noticesThrough s.notices.queue number with
    | none => s.answer f (bare .noNotice)
    | some removed =>
      let kept := s.notices.queue.drop removed.length
      let acked := removed.any isStart
      let s := { s with
        notices := { s.notices with
          queue := kept
          startAcknowledged := s.notices.startAcknowledged || acked
          earlierCauses := if acked then [] else s.notices.earlierCauses } }
      (s.dropUnsent kept).answer f ([resultCode .ok] ++ beBytes 1 removed.length ++ beBytes 1 kept.length)

/-- POLL_NOTICE (R166). -/
def State.handlePollNotice (s : State) (f : Frame) : State :=
  match readEmpty f.payload with
  | none => s.answer f (bare .badArgs)
  | some () =>
    match s.notices.queue with
    | [] => s.answer f (bare .empty)
    | n :: _ =>
      s.answer f ([resultCode .ok] ++ beBytes 1 n.number ++ [noticeCode n.content] ++ beBytes 1 n.lost ++ noticeBytes n.content)

/-- RESTART (R160): answered OK; the restart begins when that reply has been sent. -/
def State.handleRestart (s : State) (f : Frame) : State :=
  match readEmpty f.payload with
  | none => s.answer f (bare .badArgs)
  | some () => s.answer f (bare .ok)

/-! ### The request handler (R148 to R155) -/

/-- A request with this tag waits in the queue or is executing (R150, check 2). -/
def State.tagInUse (s : State) (tag : Byte) : Bool :=
  s.link.queue.any (fun r => r.tag = tag) || s.executor.executing.any (fun r => r.tag = tag)

/-- The replay table entry a frame repeats (R150, check 3). -/
def State.replayOf (s : State) (kind : RequestKind) (f : Frame) : Option ReplayEntry :=
  if isMutating kind then
    s.link.replay.find? (fun e => e.tag = f.tag ∧ e.kind = kind ∧ e.check = frameCheck f.kind f.tag f.payload)
  else none

/-- The checks of R150. -/
def State.handleQueued (s : State) (kind : RequestKind) (f : Frame) : State :=
  if s.mounted = false then s.answer f (bare .notReady)
  else if s.tagInUse f.tag then s.answer f (bare .dupTag)
  else
    match s.replayOf kind f with
    | some e => s.answer f e.reply
    | none =>
      if Config.requestQueueCapacity ≤ s.link.queue.length then s.answer f (bare .busy)
      else { s with link := { s.link with queue := s.link.queue ++ [{ kind, tag := f.tag, payload := f.payload }] } }

/-- The handler takes a good frame: by the class of its KIND (R149). A request that joins the queue is taken in the same
event by a free executor (R151). -/
def State.handle (s : State) (f : Frame) : State :=
  match requestKindOf f.kind with
  | none => s.answer f (bare .unknownKind)
  | some .status => s.handleStatus f
  | some .abandon => s.handleAbandon f
  | some .ackNotice => s.handleAckNotice f
  | some .pollNotice => s.handlePollNotice f
  | some .restart => s.handleRestart f
  | some kind => s.handleQueued kind f

/-- The handler is free: no frame of its own waits for a place (R148). -/
def State.handlerFree (s : State) : Bool := s.link.handlerReply.isNone

/-- The frame in progress, or a good frame that overruns, is discarded: the count rises, saturating (R147). -/
def State.countDiscard (s : State) : State :=
  { s with link := { s.link with discarded := min (s.link.discarded + 1) Config.maxDiscarded } }

/-- A free handler takes the held frame (R148). -/
def State.takeHeld (s : State) : State :=
  if s.handlerFree then
    match s.link.held with
    | some f => (({ s with link := { s.link with held := none } }).handle f).runExecutor
    | none => s
  else s

/-- The receiver hands over a good frame: the handler takes it, or it is held, or it is an overrun (R147, R148). A frame
already held goes first. -/
def State.deliver (s : State) (f : Frame) : State :=
  let s := s.takeHeld
  if s.handlerFree then (s.handle f).runExecutor
  else if s.link.held.isNone then { s with link := { s.link with held := some f } }
  else s.countDiscard

/-- A request of the host arrives as a good frame; nothing arrives while the receiver ignores RXD. -/
def State.hostSends (s : State) (kind : RequestKind) (tag : Byte) (payload : List Byte) : State :=
  if s.listening then s.deliver { kind := requestCode kind, tag, payload } else s

/-! ### The receiver (R145 to R147) -/

/-- The receiver back in HUNT with no frame in progress. -/
def State.hunt (s : State) : State :=
  { s with link := { s.link with rx := .hunt, received := [], byteGapRunning := false } }

/-- The frame in progress is discarded (R147). -/
def State.discardFrame (s : State) : State := s.hunt.countDiscard

/-- A good character kept in the partial frame; the byte-gap timer restarts. -/
def State.keep (s : State) (rx : RxState) (v : Byte) : State :=
  { s with link := { s.link with rx, received := s.link.received ++ [v], byteGapRunning := true } }

/-- The second check byte has been received; bytes run from LEN to that byte (R145). -/
def State.frameComplete (s : State) (bytes : List Byte) : State :=
  let body := bytes.take (bytes.length - 2)
  if checkBytes (checkValue body) = bytes.drop (bytes.length - 2) then
    s.hunt.deliver { kind := body.getD 1 0, tag := body.getD 2 0, payload := body.drop 3 }
  else s.discardFrame

/-- A good character by the receiver's state (R145). -/
def State.goodCharacter (s : State) (v : Byte) : State :=
  match s.link.rx with
  | .hunt =>
    if v = 0xB7 then { s with link := { s.link with rx := .length, received := [], byteGapRunning := true } } else s
  | .length => if v.toNat < 2 then s.discardFrame else s.keep .body v
  | .body =>
    let len := (s.link.received.headD 0).toNat
    s.keep (if len ≤ s.link.received.length then .check else .body) v
  | .check =>
    let len := (s.link.received.headD 0).toNat
    if len + 2 ≤ s.link.received.length then s.frameComplete (s.link.received ++ [v]) else s.keep .check v

/-- A character on RXD (R144, R145, R147). -/
def State.character (s : State) (v : Byte) (stopHigh : Bool) : State :=
  if s.listening then
    if stopHigh then s.goodCharacter v
    else match s.link.rx with
      | .hunt => s
      | .length => s.discardFrame
      | .body => s.discardFrame
      | .check => s.discardFrame
  else s

/-! ### The transmit queue (R156, R157, R160) -/

/-- The OK reply to a RESTART request. -/
def isRestartReply (f : Frame) : Bool := decide (f.kind = 0x85 ∧ f.payload = bare .ok)

/-- The frame at the head has gone: it leaves the queue, and the OK reply to RESTART begins the restart (R157, R160). -/
def State.headSent (s : State) : State :=
  match s.link.transmit with
  | [] => s
  | f :: rest =>
    let s := { s with link := { s.link with transmit := rest } }
    if isRestartReply f then s.takeCause .restartRequest else s

/-- The producer that began to wait first places its frame into a free place (R151, R156). -/
def State.producerPlaces (s : State) : State :=
  if s.link.transmit.length < Config.transmitCapacity then
    match s.link.waiters with
    | [] => s
    | .handler :: rest =>
      let s := { s with link := { s.link with waiters := rest } }
      match s.link.handlerReply with
      | some f => ({ s with link := { s.link with handlerReply := none } }).placeFrame f
      | none => s
    | .executor :: rest =>
      let s := { s with link := { s.link with waiters := rest } }
      match s.executor.reply with
      | some f =>
        (({ s with executor := { s.executor with reply := none, executing := none } }).placeFrame f).runExecutor
      | none => s
    | .noticeUnit :: rest =>
      let s := { s with link := { s.link with waiters := rest } }
      match s.notices.outgoing with
      | f :: more => ({ s with notices := { s.notices with outgoing := more } }).placeFrame f
      | [] => s
  else s

/-! ### The meanings of the rows -/

/-- RECEIVE_CHARACTER (R145). -/
def execReceiveCharacter (value : Byte) (stopHigh : Bool) (s : State) : Host.Outcome State Fault Refusal :=
  .next (s.character value stopHigh)

/-- BYTE_GAP_TIMER_EXPIRY (R146): without effect while the timer is stopped. -/
def execByteGapTimerExpiry (s : State) : Host.Outcome State Fault Refusal :=
  .next (if s.link.byteGapRunning then s.discardFrame else s)

/-- HELD_FRAME_TAKEN (R148). -/
def execHeldFrameTaken (s : State) : Host.Outcome State Fault Refusal :=
  .next (if s.restarting.isNone then s.takeHeld else s)

/-- STATUS (R158). -/
def execStatus (tag : Byte) (payload : List Byte) (s : State) : Host.Outcome State Fault Refusal :=
  .next (s.hostSends .status tag payload)

/-- ABANDON (R39). -/
def execAbandon (tag : Byte) (payload : List Byte) (s : State) : Host.Outcome State Fault Refusal :=
  .next (s.hostSends .abandon tag payload)

/-- ACK_NOTICE (R167). -/
def execAckNotice (tag : Byte) (payload : List Byte) (s : State) : Host.Outcome State Fault Refusal :=
  .next (s.hostSends .ackNotice tag payload)

/-- POLL_NOTICE (R166). -/
def execPollNotice (tag : Byte) (payload : List Byte) (s : State) : Host.Outcome State Fault Refusal :=
  .next (s.hostSends .pollNotice tag payload)

/-- RESTART (R160). -/
def execRestart (tag : Byte) (payload : List Byte) (s : State) : Host.Outcome State Fault Refusal :=
  .next (s.hostSends .restart tag payload)

/-- READ (R18). -/
def execRead (tag : Byte) (payload : List Byte) (s : State) : Host.Outcome State Fault Refusal :=
  .next (s.hostSends .read tag payload)

/-- LIST (R20). -/
def execList (tag : Byte) (payload : List Byte) (s : State) : Host.Outcome State Fault Refusal :=
  .next (s.hostSends .list tag payload)

/-- WEAR (R100). -/
def execWear (tag : Byte) (payload : List Byte) (s : State) : Host.Outcome State Fault Refusal :=
  .next (s.hostSends .wear tag payload)

/-- GET_REPORT (R170). -/
def execGetReport (tag : Byte) (payload : List Byte) (s : State) : Host.Outcome State Fault Refusal :=
  .next (s.hostSends .getReport tag payload)

/-- BEGIN (R24). -/
def execBegin (tag : Byte) (payload : List Byte) (s : State) : Host.Outcome State Fault Refusal :=
  .next (s.hostSends .beginTxn tag payload)

/-- STAGE_WRITE (R28). -/
def execStageWrite (tag : Byte) (payload : List Byte) (s : State) : Host.Outcome State Fault Refusal :=
  .next (s.hostSends .stageWrite tag payload)

/-- STAGE_DELETE (R32). -/
def execStageDelete (tag : Byte) (payload : List Byte) (s : State) : Host.Outcome State Fault Refusal :=
  .next (s.hostSends .stageDelete tag payload)

/-- STAGE_TALLY (R29). -/
def execStageTally (tag : Byte) (payload : List Byte) (s : State) : Host.Outcome State Fault Refusal :=
  .next (s.hostSends .stageTally tag payload)

/-- COMMIT (R44). -/
def execCommit (tag : Byte) (payload : List Byte) (s : State) : Host.Outcome State Fault Refusal :=
  .next (s.hostSends .commit tag payload)

/-- COMMIT_WAIT_END (R45): without effect unless a commit waits and its wait is over. -/
def execCommitWaitEnd (s : State) : Host.Outcome State Fault Refusal :=
  .next (match s.executor.commit, s.restarting with
    | some c, none =>
      if c.stage = .waiting ∧ c.waitOver = true ∧ s.txn.state = .committing then (s.resumeCommit c).runExecutor else s
    | _, _ => s)

/-- INCREMENT (R68). -/
def execIncrement (tag : Byte) (payload : List Byte) (s : State) : Host.Outcome State Fault Refusal :=
  .next (s.hostSends .increment tag payload)

/-- INCREMENT_WAIT_END (R70): without effect unless an increment waits and its wait is over. -/
def execIncrementWaitEnd (s : State) : Host.Outcome State Fault Refusal :=
  .next (match s.executor.increment, s.restarting with
    | some i, none => if i.waiting = true ∧ i.waitOver = true then (s.resumeIncrement i).runExecutor else s
    | _, _ => s)

/-- COMPACT (R106). -/
def execCompact (tag : Byte) (payload : List Byte) (s : State) : Host.Outcome State Fault Refusal :=
  .next (s.hostSends .compact tag payload)

/-- FORMAT (R139). -/
def execFormat (tag : Byte) (payload : List Byte) (s : State) : Host.Outcome State Fault Refusal :=
  .next (s.hostSends .format tag payload)

/-- FRAME_SENT (R157): without effect while nothing is being sent. -/
def execFrameSent (s : State) : Host.Outcome State Fault Refusal :=
  .next (if s.listening then s.headSent else s)

/-- WAITING_PRODUCER_PLACES (R156): without effect while no producer waits or no place is free. -/
def execWaitingProducerPlaces (s : State) : Host.Outcome State Fault Refusal :=
  .next (if s.restarting.isNone then s.producerPlaces else s)

/-- IDLE_TIMER_EXPIRY (R38): without effect while the timer is stopped. That it has none while the device is restarting is the
model's choice (log entry 37). -/
def execIdleTimerExpiry (s : State) : Host.Outcome State Fault Refusal :=
  .next (if s.restarting.isNone ∧ s.txn.idleRunning = true ∧ s.txn.state = .opened then
    s.endTxn.raise (.txnExpired (s.txn.number.getD 0)) else s)

end Sys2Proof.Machine
end

