-- ==== Sys2Proof/Machine/Arbiter.lean ====
section
/-! DEFINITION. The array arbiter's grants (R96 to R99) and the completions of array operations (R84 to R87). -/

namespace Sys2Proof.Machine

/-! ### Eligibility (R71, R98, R99) -/

/-- An operation the supply allows to be granted (R98). -/
def State.supplyAllows (s : State) (op : RequestOp) : Bool :=
  match op with
  | .read => true
  | .program => decide (s.supply.state = .normal)
  | .erase => decide (s.supply.state = .normal)

/-- The tally a program of the engine concerns: of a fold, or of a copy of a base or bump (R71). -/
def Compaction.tallyConcern (c : Compaction) : Option Nat :=
  match c.record with
  | none => none
  | some r =>
    let tally : Option Nat := match r.entry with
      | .tallyBase _ ident _ _ _ => some ident
      | .bump _ ident _ _ => some ident
      | _ => none
    match c.action with
    | .fold _ => tally
    | .copy _ _ => tally
    | _ => none

/-- The tally the engine holds: the first cell of its entry has been granted (R71). -/
def Compaction.tallyHeld (c : Compaction) : Option Nat :=
  match c.action with
  | .fold (some _) => c.tallyConcern
  | .copy _ true => c.tallyConcern
  | _ => none

/-- The tally the executing increment holds (R71). -/
def Executor.tallyHeld (e : Executor) : Option Nat :=
  e.increment.bind (fun i => if i.composed.isSome then some i.ident else none)

/-- The executor's request is eligible. A FORMAT's waits behind a run the engine carries on (R139). -/
def State.executorEligible (s : State) : Bool :=
  match s.array.executorRequest with
  | none => false
  | some op =>
    s.supplyAllows op
      && !(decide (op = .program) && s.executor.increment.any (fun i => decide (s.compaction.tallyHeld = some i.ident)))
      && (s.executor.format.isNone || decide (s.compaction.phase = .idle))

/-- A fold that the engine has requested or begun waits while R7 keeps its tally from being folded (R50; that it waits at the
arbiter is the model's reading, log entry 28). -/
def State.foldWaits (s : State) : Bool :=
  match s.compaction.action with
  | .fold _ => s.recordBarred
  | _ => false

/-- The engine's request is eligible. -/
def State.compactionEligible (s : State) : Bool :=
  match s.array.compactionRequest with
  | none => false
  | some op =>
    s.supplyAllows op
      && !(decide (op = .program) && s.compaction.tallyConcern.any (fun t => decide (s.executor.tallyHeld = some t)))
      && !(decide (op = .program) && s.foldWaits)

def State.mountEligible (s : State) : Bool := s.array.mountRequest.any s.supplyAllows

/-- The requester the arbiter grants (R97). -/
def State.chooseRequester (s : State) : Option Requester :=
  if s.mount.isSome then (if s.mountEligible then some .mount else none)
  else
    match s.executorEligible, s.compactionEligible with
    | false, false => none
    | true, false => some .executor
    | false, true => some .compaction
    | true, true => if 2 ≤ s.erasedCount then some .executor else some .compaction

/-! ### Grants -/

def State.grantExecutor (s : State) : State :=
  match s.executor.blobRead, s.executor.commit, s.executor.increment, s.executor.format with
  | some ident, _, _, _ => s.grantBlobRead ident
  | none, some c, _, _ => s.grantCommit c
  | none, none, some i, _ => s.grantIncrement i
  | none, none, none, some f => s.grantFormat f
  | none, none, none, none => s

/-- A requester's waiting request leaves the waiting set and is granted (R96). -/
def State.grant (s : State) (who : Requester) : State :=
  let s := s.request who none
  match who with
  | .executor => s.grantExecutor
  | .compaction => s.grantCompaction
  | .mount => s.grantMount

/-! ### Completions -/

/-- A read's content handed to its requester. -/
def State.readDone (s : State) (owner : Option Requester) (words : List CellWord) : State :=
  match owner with
  | some .executor =>
    match s.executor.blobRead with
    | some ident => s.blobRead ident words
    | none => s
  | some .compaction => s.compactionRead words
  | some .mount => s.mountRead words
  | none => s

/-- A cell program's outcome handed to its requester. -/
def State.cellDone (s : State) (owner : Option Requester) (outcome : ArrayOutcome) : State :=
  match owner with
  | some .executor =>
    match s.executor.commit, s.executor.increment, s.executor.format with
    | some c, _, _ => s.commitCellDone c outcome
    | none, some i, _ => s.incrementCellDone i outcome
    | none, none, some f => s.formatCellDone f outcome
    | none, none, none => s
  | some .compaction => s.compactionCellDone outcome
  | some .mount => s
  | none => s

/-- The completion of an open header handed to its requester. -/
def State.headerDone (s : State) (owner : Option Requester) : State :=
  match owner with
  | some .executor =>
    match s.executor.commit, s.executor.increment, s.executor.format with
    | some c, _, _ => s.commitHeaderDone c
    | none, some i, _ => s.continueIncrement i
    | none, none, some _ => s.formatHeaderDone
    | none, none, none => s
  | some .compaction => s.compactionHeaderDone
  | some .mount => s
  | none => s

/-- An erase's outcome handed to its requester. -/
def State.eraseDone (s : State) (owner : Option Requester) (p : PageIx) (count : Nat) (outcome : ArrayOutcome) : State :=
  match owner with
  | some .executor =>
    match s.executor.format with
    | some f => s.formatErased f p count outcome
    | none => s
  | some .compaction => s.compactionErased p count outcome
  | some .mount => s.mountErased p count outcome
  | none => s

/-! ### The meanings of the rows -/

/-- ARBITER_GRANT (R96): without effect while the array is in use, the device is restarting or no waiting request is
eligible. -/
def execArbiterGrant (s : State) : Host.Outcome State Fault Refusal :=
  .next (if s.restarting.isNone ∧ s.array.inFlight = none then
    match s.chooseRequester with
    | some who => (s.grant who).runExecutor
    | none => s
    else s)

/-- READ_COMPLETE (R84): without effect while no read is in flight. While the device is restarting the content is handed
to nobody (R87). -/
def execReadComplete (indeterminate : List CellWord) (s : State) : Host.Outcome State Fault Refusal :=
  .next (match s.array.inFlight with
    | some { owner, op := .read page first count } =>
      let got := s.array.cells.readRun (cellAddress page first) count indeterminate s.freeIndex
      let s := { s.landed with freeIndex := got.2 }
      if s.restarting.isNone then (s.readDone owner got.1).runExecutor else s
    | _ => s)

/-- PROGRAM_COMPLETE (R85): without effect while no program is in flight. While the device is restarting the cell takes
the outcome and nobody else does (R87). -/
def execProgramComplete (outcome : ArrayOutcome) (s : State) : Host.Outcome State Fault Refusal :=
  .next (match s.array.inFlight with
    | some { owner, op := .program page cell word } =>
      let s := (s.landed.landCell page cell word outcome).raiseUsed page (cell + 1)
      if s.restarting.isNone then (s.cellDone owner outcome).runExecutor else s
    | some { owner, op := .openHeader page word } =>
      let s := s.landed.landHeader page word outcome
      if s.restarting.isNone then (s.headerDone owner).runExecutor else s
    | _ => s)

/-- COMPACTION_WALK_RESUME (R7): without effect unless the walk waits and no COMMITTING
transaction keeps the tally of the record it stands at from being folded. -/
def execCompactionWalkResume (s : State) : Host.Outcome State Fault Refusal :=
  .next (if s.restarting.isNone then s.resumeWalk else s)

/-- ERASE_COMPLETE (R86): without effect while no erase is in flight. While the device is restarting the page takes the
outcome and nobody else does (R87). -/
def execEraseComplete (outcome : ArrayOutcome) (s : State) : Host.Outcome State Fault Refusal :=
  .next (match s.array.inFlight with
    | some { owner, op := .erase page count } =>
      let s := s.landed.landErase page count outcome
      if s.restarting.isNone then (s.eraseDone owner page count outcome).runExecutor else s
    | _ => s)

end Sys2Proof.Machine
end

