-- ==== Sys2Proof/Machine/Restarting.lean ====
section
/-! DEFINITION. The supply supervisor, RESET_N and the restart (R173 to R180). -/

namespace Sys2Proof.Machine

/-! ### Supply (R173 to R175) -/

/-- VDD stands at or below 2.80 V: the recovery timer stops, and the good supply measured for a restart is void. -/
def State.vddFalls (s : State) : State :=
  { s with supply := { s.supply with vddAbove := false, recoveryRunning := false, vddGood := false } }

/-- The supply wait of a restart: a cold one, or one taken in CAUTION or CAUTION_LONG (R178). -/
def State.restartNeedsSupply (s : State) : Bool :=
  s.restarting.any (fun r => r.cold) || (s.restarting.isSome && decide (s.supply.state ≠ .normal))

/-- The recovery timer runs while VDD is above 2.80 V in CAUTION or CAUTION_LONG, and for a restart that waits for the
supply (R174, R178). -/
def State.measuresRecovery (s : State) : Bool := decide (s.supply.state ≠ .normal) || s.restartNeedsSupply

/-- VDD rises above 2.80 V. RESET_N is read in a cold restart, and if low its cause joins (R178, R179). -/
def State.vddRises (s : State) : State :=
  if s.supply.vddAbove then s
  else
    let s := { s with supply := { s.supply with vddAbove := true, recoveryRunning := s.measuresRecovery } }
    if s.restarting.any (fun r => r.cold) ∧ s.supply.resetNHigh = false then s.takeCause .resetLine else s

/-- The supply returns to NORMAL, and the change is handed on: the SUPPLY notice first, then the engine (R174, R175). -/
def State.supplyRecovers (s : State) : State :=
  let long := decide (s.supply.state = .cautionLong)
  let s := { s with supply := { s.supply with state := .normal, cautionRunning := false, recoveryRunning := false } }
  (if long then s.askSupply .normalAgain else s).resumeSelect

/-- The caution timer expires: the SUPPLY notice is raised before a commit or increment ends SUPPLY_LOW (R174, R175). -/
def State.cautionExpires (s : State) : State :=
  let s := { s with supply := { s.supply with state := .cautionLong, cautionRunning := false } }
  ((s.askSupply .cautionLongBegin).cautionCommit.cautionIncrement).runExecutor

/-! ### The restart proceeds (R178 to R180) -/

/-- Every condition of R178 holds. -/
def State.canProceed (s : State) : Bool :=
  match s.restarting with
  | none => false
  | some r =>
    s.array.inFlight.isNone && (!r.needsResetHigh || s.supply.resetNHigh) && (!s.restartNeedsSupply || s.supply.vddGood)

/-- The earlier-causes list as a restart leaves it (R171). -/
def State.updatedCauses (s : State) (r : Restarting) : List Cause :=
  if r.cold then []
  else if s.notices.startAcknowledged then s.notices.earlierCauses
  else
    let all := s.notices.earlierCauses ++ [s.notices.currentCause]
    all.drop (all.length - 4)

/-- Every block takes its restart values, and the mount begins (R180). -/
def State.proceed (s : State) (r : Restarting) (rateHigh : Bool) : State :=
  { s with
    link := Link.restarted rateHigh
    executor := Executor.free
    txn := Txn.restarted
    directory := []
    carry := []
    array := ArrayState.restarted s.array.cells
    compaction := Compaction.idle
    store := .mounting
    mount := some (MountRecord.start none)
    notices := NoticeUnit.restarted s.notices.report (s.updatedCauses r) r.cause
    supply := Supply.restarted s.supply.vddAbove s.supply.resetNHigh
    restarting := none }

/-! ### The meanings of the rows -/

/-- SUPPLY_CAUTION (R173, R174): in NORMAL the state becomes CAUTION and the caution timer starts; VDD stands below
2.80 V in any state. While the device is restarting no change is handed on (R178). -/
def execSupplyCaution (s : State) : Host.Outcome State Fault Refusal :=
  .next (
    let s := s.vddFalls
    if s.restarting.isNone ∧ s.supply.state = .normal then
      { s with supply := { s.supply with state := .caution, cautionRunning := true } }
    else s)

/-- CAUTION_TIMER_EXPIRY (R174): without effect while the timer is stopped; while restarting it only stops (R178). -/
def execCautionTimerExpiry (s : State) : Host.Outcome State Fault Refusal :=
  .next (
    if s.supply.cautionRunning then
      if s.restarting.isNone then s.cautionExpires else { s with supply := { s.supply with cautionRunning := false } }
    else s)

/-- VDD_ABOVE_RECOVERY (R174). -/
def execVddAboveRecovery (s : State) : Host.Outcome State Fault Refusal := .next s.vddRises

/-- VDD_AT_OR_BELOW_RECOVERY (R174). -/
def execVddAtOrBelowRecovery (s : State) : Host.Outcome State Fault Refusal := .next s.vddFalls

/-- RECOVERY_TIMER_EXPIRY (R174): without effect while the timer is stopped; while restarting it measures the supply
condition of R178. -/
def execRecoveryTimerExpiry (s : State) : Host.Outcome State Fault Refusal :=
  .next (
    if s.supply.recoveryRunning then
      if s.restarting.isNone then s.supplyRecovers
      else { s with supply := { s.supply with recoveryRunning := false, vddGood := true } }
    else s)

/-- BROWNOUT (R176): a cold cause is taken. -/
def execBrownout (s : State) : Host.Outcome State Fault Refusal := .next (s.vddFalls.takeCause .brownout)

/-- POWER_ON (R176): a cold cause is taken, what stands below the retention level is lost, and VDD stands above 2.80 V,
so the recovery timer starts and RESET_N is read (R178, R179). -/
def execPowerOn (s : State) : Host.Outcome State Fault Refusal :=
  .next (
    let s := s.vddFalls.takeCause .powerOn
    ({ s with notices := { s.notices with
        report := Report.unbuilt, startAcknowledged := false, earlierCauses := [], currentCause := .powerOn } }).vddRises)

/-- RESET_N_FALL (R161, R164, R177): a frame being sent is cut off, and the notice queue is emptied. -/
def execResetNFall (s : State) : Host.Outcome State Fault Refusal :=
  .next (
    if s.supply.resetNHigh then
      let t := s.emptyNotices
      { t with
        supply := { s.supply with resetNHigh := false }
        link := { t.link with cutOff := s.sending.isSome } }
    else s)

/-- RESET_LINE (R177): RESET_N has been low for 10 µs, and a warm cause is taken; without effect while RESET_N is high. That it
is taken also while VDD stands at or below 2.80 V in the hold of a cold restart is the model's choice (log entry 35). -/
def execResetLine (s : State) : Host.Outcome State Fault Refusal :=
  .next (if s.supply.resetNHigh then s else s.takeCause .resetLine)

/-- RESET_N_RISE (R177): after a short low the frame cut off leaves the transmit queue as though sent. -/
def execResetNRise (s : State) : Host.Outcome State Fault Refusal :=
  .next (
    if s.supply.resetNHigh then s
    else
      let cut := s.link.cutOff
      let s := { s with supply := { s.supply with resetNHigh := true }, link := { s.link with cutOff := false } }
      if cut ∧ s.restarting.isNone then s.headSent else s)

/-- RESTART_PROCEED (R178): without effect until every condition holds. -/
def execRestartProceed (rateHigh : Bool) (s : State) : Host.Outcome State Fault Refusal :=
  .next (match s.restarting with
    | some r => if s.canProceed then s.proceed r rateHigh else s
    | none => s)

end Sys2Proof.Machine
end

