-- ==== Sys2Proof/Machine/Dispatch.lean ====
section
/-! DEFINITION. exec: one arm per command, each a direct call of its meaning. -/

namespace Sys2Proof.Machine

def exec (i : Instr) (s : State) : Host.Outcome State Fault Refusal :=
  match i with
  | .receiveCharacter value stopHigh => Sys2Proof.Machine.execReceiveCharacter value stopHigh s
  | .byteGapTimerExpiry => Sys2Proof.Machine.execByteGapTimerExpiry s
  | .heldFrameTaken => Sys2Proof.Machine.execHeldFrameTaken s
  | .status tag payload => Sys2Proof.Machine.execStatus tag payload s
  | .abandon tag payload => Sys2Proof.Machine.execAbandon tag payload s
  | .ackNotice tag payload => Sys2Proof.Machine.execAckNotice tag payload s
  | .pollNotice tag payload => Sys2Proof.Machine.execPollNotice tag payload s
  | .restart tag payload => Sys2Proof.Machine.execRestart tag payload s
  | .read tag payload => Sys2Proof.Machine.execRead tag payload s
  | .list tag payload => Sys2Proof.Machine.execList tag payload s
  | .wear tag payload => Sys2Proof.Machine.execWear tag payload s
  | .getReport tag payload => Sys2Proof.Machine.execGetReport tag payload s
  | .beginTxn tag payload => Sys2Proof.Machine.execBegin tag payload s
  | .stageWrite tag payload => Sys2Proof.Machine.execStageWrite tag payload s
  | .stageDelete tag payload => Sys2Proof.Machine.execStageDelete tag payload s
  | .stageTally tag payload => Sys2Proof.Machine.execStageTally tag payload s
  | .commit tag payload => Sys2Proof.Machine.execCommit tag payload s
  | .commitWaitEnd => Sys2Proof.Machine.execCommitWaitEnd s
  | .increment tag payload => Sys2Proof.Machine.execIncrement tag payload s
  | .incrementWaitEnd => Sys2Proof.Machine.execIncrementWaitEnd s
  | .compact tag payload => Sys2Proof.Machine.execCompact tag payload s
  | .format tag payload => Sys2Proof.Machine.execFormat tag payload s
  | .frameSent => Sys2Proof.Machine.execFrameSent s
  | .waitingProducerPlaces => Sys2Proof.Machine.execWaitingProducerPlaces s
  | .idleTimerExpiry => Sys2Proof.Machine.execIdleTimerExpiry s
  | .arbiterGrant => Sys2Proof.Machine.execArbiterGrant s
  | .readComplete indeterminate => Sys2Proof.Machine.execReadComplete indeterminate s
  | .programComplete outcome => Sys2Proof.Machine.execProgramComplete outcome s
  | .compactionWalkResume => Sys2Proof.Machine.execCompactionWalkResume s
  | .eraseComplete outcome => Sys2Proof.Machine.execEraseComplete outcome s
  | .supplyCaution => Sys2Proof.Machine.execSupplyCaution s
  | .cautionTimerExpiry => Sys2Proof.Machine.execCautionTimerExpiry s
  | .vddAboveRecovery => Sys2Proof.Machine.execVddAboveRecovery s
  | .vddAtOrBelowRecovery => Sys2Proof.Machine.execVddAtOrBelowRecovery s
  | .recoveryTimerExpiry => Sys2Proof.Machine.execRecoveryTimerExpiry s
  | .brownout => Sys2Proof.Machine.execBrownout s
  | .powerOn => Sys2Proof.Machine.execPowerOn s
  | .resetNFall => Sys2Proof.Machine.execResetNFall s
  | .resetLine => Sys2Proof.Machine.execResetLine s
  | .resetNRise => Sys2Proof.Machine.execResetNRise s
  | .restartProceed rateHigh => Sys2Proof.Machine.execRestartProceed rateHigh s

end Sys2Proof.Machine
end

