-- ==== Sys2Proof/Machine/Step.lean ====
section
/-! DEFINITION. step: the command at the front of the queue is executed; on an empty queue the block idles. -/

namespace Sys2Proof.Machine

/-- One step: the command at the front leaves the queue and has its effect; with no command waiting nothing happens. -/
def step (s : State) : Host.Outcome State Fault Refusal :=
  match s.pending with
  | [] => .next s
  | c :: rest => exec c { s with pending := rest }

/-- The state with the command that a word spells put at the front of its queue; unchanged where it spells none. -/
def State.withFetchWord (s : State) (nbits w : Nat) : State :=
  match decodeTableWord nbits w with
  | some c => { s with pending := c :: s.pending }
  | none => s

end Sys2Proof.Machine
end

