-- ==== Sys2Proof/Safety.lean ====
section
/-! DEFINITION. The vocabulary of the statements: bounds and invariants of the state, the states in which a request is
served at once, and the commands of a request. -/

namespace Sys2Proof.Machine

/-! ### Bounds and invariants -/

/-- The link controller's bounds: at most 4 queued requests (R151), 6 frames (R156) and 8 replay entries with distinct
tags (R154), a discarded-frame count up to 65,535 (R147), and a byte-gap timer that runs exactly outside HUNT (R146). -/
def Link.bounded (l : Link) : Prop :=
  l.queue.length ≤ 4 ∧ l.transmit.length ≤ 6 ∧ l.replay.length ≤ 8 ∧ (l.replay.map ReplayEntry.tag).Nodup ∧
    l.discarded ≤ 65535 ∧ (l.byteGapRunning = true ↔ l.rx ≠ .hunt)

/-- The notice unit's bounds (R162, R163, R171): at most 8 queued notices, numbers 1 to 255, lost counts up to 255, at
most 4 earlier causes. -/
def NoticeUnit.bounded (u : NoticeUnit) : Prop :=
  u.queue.length ≤ 8 ∧ 1 ≤ u.nextNumber ∧ u.nextNumber ≤ 255 ∧
    (∀ n ∈ u.queue, 1 ≤ n.number ∧ n.number ≤ 255 ∧ n.lost ≤ 255) ∧ u.earlierCauses.length ≤ 4

/-- The notice unit within its bounds, and with an empty queue where it has to be (R164). -/
def NoticeUnit.kept (u : NoticeUnit) (muted : Bool) : Prop := u.bounded ∧ (muted = true → u.queue = [])

/-- The transaction context (R22, R25, R37): in NONE there is no number and nothing staged; the idle timer runs in OPEN
only; at most 16 operations and 1,024 data bytes, no two on one identifier. -/
def Txn.tidy (x : Txn) : Prop :=
  (x.state = .none → x.number = none ∧ x.staging = []) ∧ (x.idleRunning = true ↔ x.state = .opened) ∧
    x.staging.length ≤ 16 ∧ stagedBytes x.staging ≤ 1024 ∧ (x.staging.map opIdent).Nodup

/-- The directory's entries stand in strictly ascending identifier order (R8). -/
def directorySorted (d : List DirEntry) : Prop := (d.map DirEntry.ident).Pairwise (fun a b => a < b)

/-- The directory a mount has resolved, if it has, is in that order too (R129, R137). -/
def mountSorted (m : Option MountRecord) : Prop :=
  ∀ x r, m = some x → x.result = some r → directorySorted r.directory

/-- The invariant every step keeps. -/
def State.sound (s : State) : Prop :=
  s.array.cells.wf = true ∧ directorySorted s.directory ∧ s.link.bounded ∧ s.notices.kept s.muted ∧ s.txn.tidy ∧
    mountSorted s.mount

/-! ### Header cells -/

/-- A header cell's check value: over its sixteen bytes with bytes 14 and 15 taken as zero (R186). -/
def headerCheck (w : CellWord) : Check := checkValue ((List.range 14).map (cellByte w) ++ [0, 0])

/-! ### Serving a request at once -/

/-- The command of a host request. -/
def commandOf : RequestKind → Byte → List Byte → Instr
  | .status => .status | .abandon => .abandon | .ackNotice => .ackNotice | .pollNotice => .pollNotice
  | .restart => .restart | .read => .read | .list => .list | .wear => .wear | .getReport => .getReport
  | .beginTxn => .beginTxn | .stageWrite => .stageWrite | .stageDelete => .stageDelete | .stageTally => .stageTally
  | .commit => .commit | .increment => .increment | .compact => .compact | .format => .format

/-- The request handler takes the next good frame in the event in which it completes, and its reply finds a place: the
device is not restarting, RESET_N is high, the handler is free with no frame held, fewer than 6 frames stand in the
transmit queue and no producer waits (R148, R156, R178). -/
def State.answersNow (s : State) : Prop :=
  s.restarting = none ∧ s.supply.resetNHigh = true ∧ s.link.handlerReply = none ∧ s.link.held = none ∧
    s.link.transmit.length < 6 ∧ s.link.waiters = []

/-- The request handler takes the next good frame in the event in which it completes, whether or not its reply finds a
place: the device is not restarting, RESET_N is high, and the handler is free with no frame held (R148, R178). -/
def State.takesNow (s : State) : Prop :=
  s.restarting = none ∧ s.supply.resetNHigh = true ∧ s.link.handlerReply = none ∧ s.link.held = none

/-- The executor has nothing to take: it is busy, or the store is not mounted, or no request waits (R151). -/
def State.nothingToTake (s : State) : Prop :=
  s.executor.executing ≠ none ∨ s.store = .mounting ∨ s.store = .formatting ∨ s.link.queue = []

/-- A queued request that arrives now is executed in the same event: the handler is as above, the store READY or
READ_ONLY, the executor free and the queue empty, and the replay table does not answer the frame (R150, R151). -/
def State.executesNow (s : State) (kind : RequestKind) (tag : Byte) (payload : List Byte) : Prop :=
  s.answersNow ∧ (s.store = .ready ∨ s.store = .readOnly) ∧ s.executor.executing = none ∧ s.link.queue = [] ∧
    s.replayOf kind { kind := requestCode kind, tag, payload } = none

/-- s with a frame joined to the transmit queue. -/
def State.withFrame (s : State) (f : Frame) : State :=
  { s with link := { s.link with transmit := s.link.transmit ++ [f] } }

/-- s as a reply of the handler leaves it: the frame joins the transmit queue where it finds a place, and else the handler
waits with it, behind the producers that wait already (R148, R156). -/
def State.handlerAnswered (s : State) (f : Frame) : State :=
  if s.link.transmit.length < 6 ∧ s.link.waiters = [] then s.withFrame f
  else { s with link := { s.link with
      handlerReply := some f
      waiters := if .handler ∈ s.link.waiters then s.link.waiters else s.link.waiters ++ [.handler] } }

/-- s with a request's reply joined to the transmit queue and, for a mutating kind, entered in the replay table. -/
def State.replied (s : State) (kind : RequestKind) (tag : Byte) (payload reply : List Byte) : State :=
  { s with link := { s.link with
      transmit := s.link.transmit ++ [{ kind := requestCode kind + 0x80, tag, payload := reply }]
      replay := if isMutating kind then
          replayInsert s.link.replay
            { tag, kind, check := frameCheck (requestCode kind) tag payload, reply }
        else s.link.replay } }

/-- s as the reply to its executing request leaves it: the request no longer executes (R151, R153, R156). -/
def State.answered (s : State) (r : Request) (reply : List Byte) : State :=
  State.replied { s with executor := { s.executor with executing := none } } r.kind r.tag r.payload reply

/-- The executing request r is answered in the event that produces its reply, and no request waits behind it: the device
is not restarting, and the executor's frame finds a place (R151, R156). -/
def State.finishes (s : State) (r : Request) : Prop :=
  s.restarting = none ∧ s.executor.executing = some r ∧ s.link.queue = [] ∧ s.link.transmit.length < 6 ∧
    s.link.waiters = []

/-- A STAGE or COMMIT of this transaction passes the transaction, store and supply checks (R27, R44). -/
def State.accepts (s : State) (number : Nat) : Prop :=
  s.txn.state = .opened ∧ s.txn.number = some number ∧ s.store = .ready ∧ s.supply.state ≠ .cautionLong

/-- The layouts and ranges of 11.3 (R183, R184), spelled as the table has them. -/
def payloadValid (kind : RequestKind) (p : List Byte) : Prop :=
  let identAt (k : Nat) : Prop := 1 ≤ beNat ((p.drop k).take 2) ∧ beNat ((p.drop k).take 2) ≤ 4094
  let number : Prop := 1 ≤ beNat (p.take 4) ∧ beNat (p.take 4) ≤ 4294967294
  match kind with
  | .status => p = [0] ∨ p = [1]
  | .abandon => p.length = 4 ∧ number
  | .ackNotice => p.length = 1 ∧ 1 ≤ beNat p
  | .pollNotice => p = []
  | .restart => p = []
  | .read => p.length = 2 ∧ identAt 0
  | .list => p.length = 3 ∧ identAt 0 ∧ 1 ≤ beNat (p.drop 2) ∧ beNat (p.drop 2) ≤ 20
  | .wear =>
    p.length = 2 ∧ beNat (p.take 1) ≤ 31 ∧ 1 ≤ beNat (p.drop 1) ∧ beNat (p.drop 1) ≤ 32 ∧
      beNat (p.take 1) + beNat (p.drop 1) ≤ 32
  | .getReport => p = []
  | .beginTxn => p = []
  | .stageWrite => 6 ≤ p.length ∧ p.length ≤ 246 ∧ number ∧ identAt 4
  | .stageDelete => p.length = 6 ∧ number ∧ identAt 4
  | .stageTally => p.length = 10 ∧ number ∧ identAt 4
  | .commit => p.length = 4 ∧ number
  | .increment => p.length = 4 ∧ identAt 0 ∧ 1 ≤ beNat (p.drop 2)
  | .compact => p.length = 1 ∧ 1 ≤ beNat p ∧ beNat p ≤ 8
  | .format => p = []

/-! ### Staging -/

/-- Nothing is staged on an identifier. -/
def State.unstaged (s : State) (ident : Nat) : Prop := ∀ op ∈ s.txn.staging, opIdent op ≠ ident

/-- op is what is staged on an identifier, between the operations before and after it. -/
def State.stagedAt (s : State) (ident : Nat) (before : List StagedOp) (op : StagedOp) (after : List StagedOp) : Prop :=
  s.txn.staging = before ++ op :: after ∧ opIdent op = ident ∧ (∀ x ∈ before, opIdent x ≠ ident) ∧
    ∀ x ∈ after, opIdent x ≠ ident

/-- The data bytes a staging list counts (R25). -/
def dataBytes : List StagedOp → Nat
  | [] => 0
  | .write _ data :: rest => data.length + dataBytes rest
  | .delete _ :: rest => dataBytes rest
  | .createTally _ _ :: rest => dataBytes rest

/-- s as an accepted STAGE request leaves it, answered with the counts (R35). -/
def State.staged (s : State) (kind : RequestKind) (tag : Byte) (payload : List Byte) (ops : List StagedOp) : State :=
  State.replied { s with txn := { s.txn with staging := ops, idleRunning := true } } kind tag payload
    ([0x00] ++ beBytes 1 ops.length ++ beBytes 2 (dataBytes ops))

/-- A STAGE request whose effect is the list ops meets the generation check and the capacity check (R33, R34, R35). -/
def State.stagesTo (s : State) (kind : RequestKind) (tag : Byte) (payload : List Byte) (ident : Nat)
    (ops : List StagedOp) : Prop :=
  let outcome := exec (commandOf kind tag payload) s
  let limit : Prop := ∃ e, s.entryOf ident = some e ∧ 4294967295 ≤ e.gen
  (limit → outcome = .next (s.replied kind tag payload [0x51])) ∧
    (¬limit → ops.length ≤ 16 → dataBytes ops ≤ 1024 → outcome = .next (s.staged kind tag payload ops)) ∧
    (¬limit → 16 < ops.length ∨ 1024 < dataBytes ops → outcome = .next (s.replied kind tag payload [0x23]))

/-- The directory holds an entry of that kind code for an identifier: 1 BLOB, 2 TALLY, 3 TOMBSTONE. -/
def State.holdsKind (s : State) (ident : Nat) (code : Byte) : Prop :=
  ∃ e, s.entryOf ident = some e ∧ bodyCode e.body = code

/-! ### The victim counts -/

/-- The victim count of an identifier (R16). -/
def victimCount (counts : List (Nat × Nat)) (ident : Nat) : Nat :=
  ((counts.filter (fun x => x.1 = ident)).map (fun x => x.2)).sum

/-- An entry superseded at this location joins the victim counts: it lies in the victim at a survey record that the walk has
passed, or at the one that the engine copies or folds (R16; that it counts as passed then is the model's reading, log
entry 25). -/
def State.passedInVictim (s : State) (l : Loc) : Bool :=
  decide (s.compaction.victim = some l.page) && s.compaction.survey.zipIdx.any (fun x => decide (x.1.first = l.cell) &&
    match s.compaction.walk with
    | none => true
    | some k => decide (x.2 < k) || (decide (x.2 = k) && match s.compaction.action with
      | .readCopy => true
      | .copy _ _ => true
      | .fold _ => true
      | _ => false))

/-! ### The engine's choices -/

/-- s with the engine's record and its waiting request. -/
def State.withEngine (s : State) (c : Compaction) (ask : Option RequestOp) : State :=
  { s with compaction := c, array := { s.array with compactionRequest := ask } }

/-- The engine with a run in SELECT: the demands, and the run's victims and reclaimed cells. -/
def Compaction.selecting (host : Nat) (automatic : Bool) (victims reclaimed : Nat) : Compaction :=
  { Compaction.idle with
    phase := .select, hostDemand := host, automaticDemand := automatic, runVictims := victims, runReclaimed := reclaimed }

/-- s as the end of a run leaves it, with no demand left: the engine IDLE, and COMPACTED raised if the run has completed a
victim (R119). -/
def State.runOver (s : State) (victims reclaimed : Nat) : State :=
  let idle := s.withEngine Compaction.idle none
  if 1 ≤ victims then idle.raise (.compacted victims reclaimed s.erasedCount) else idle

/-- The outcome is that of an engine which chooses in s, with c its record in SELECT (R108): it takes the best victim, whose
survey it begins; with none it asks for the open header that seals an OPEN page with a dead cell and no run of the executor
in programming while 2 or more pages are ERASED; and else the run ends, with SPACE_LOW at 2 or fewer ERASED pages. -/
def State.chooses (s : State) (c : Compaction) (outcome : Host.Outcome State Fault Refusal) : Prop :=
  let sealable (q : PageIx) : Prop := 1 ≤ (s.page q).used - 2 - (s.page q).live ∧ 2 ≤ s.erasedCount ∧
    ∀ r, s.executorRun = some r → r.page ≠ q
  (∀ v, s.bestVictim = some v → outcome = .next ((s.setPage v { s.page v with state := .victim }).withEngine
    { c with phase := .copy, victim := some v, walk := some 0, action := .survey } (some .read))) ∧
  (∀ q, s.bestVictim = none → s.openPage = some q → sealable q →
    outcome = .next (s.withEngine { c with action := .seal } (some .program))) ∧
  (s.bestVictim = none → (∀ q, s.openPage = some q → ¬sealable q) → outcome = .next
    ((if s.erasedCount ≤ 2 then s.raise (.spaceLow s.erasedCount) else s).runOver c.runVictims c.runReclaimed))

/-- The outcome is that of an engine which enters SELECT in s with these demands and counts of its run (R107): the clearing
test of R105; with no demand left the run ends; with the supply NORMAL it chooses, and else it stays in SELECT. -/
def State.selects (s : State) (host : Nat) (automatic : Bool) (victims reclaimed : Nat)
    (outcome : Host.Outcome State Fault Refusal) : Prop :=
  let kept := automatic && !decide (6 ≤ s.erasedCount ∧ (s.directory.filter (fun e => e.body = .tombstone)).length ≤ 64)
  let c := Compaction.selecting host kept victims reclaimed
  (host = 0 → kept = false → outcome = .next (s.runOver victims reclaimed)) ∧
  (0 < host ∨ kept = true →
    (s.supply.state ≠ .normal → outcome = .next (s.withEngine c none)) ∧
    (s.supply.state = .normal → s.chooses c outcome))

/-- The outcome is s with the automatic demand set (R105): with the engine IDLE and the store READY a run begins in that
event. -/
def State.demands (s : State) (outcome : Host.Outcome State Fault Refusal) : Prop :=
  (s.compaction.phase ≠ .idle ∨ s.store ≠ .ready →
    outcome = .next { s with compaction := { s.compaction with automaticDemand := true } }) ∧
  (s.compaction = Compaction.idle → s.store = .ready → s.selects 0 true 0 0 outcome)

/-- The outcome leaves the walk given up: the victim SEALED again, the demands cleared and the engine IDLE, with the store
state given (R114, R115, R120). -/
def walkGivenUp (outcome : Host.Outcome State Fault Refusal) (v : PageIx) (store : StoreState) : Prop :=
  ∃ t, outcome = .next t ∧ (t.page v).state = .sealed ∧ t.compaction.phase = .idle ∧ t.compaction.victim = none ∧
    t.compaction.run = none ∧ t.compaction.hostDemand = 0 ∧ t.compaction.automaticDemand = false ∧ t.store = store

/-! ### Space -/

/-- The pages that a placement of that many cells opens (R47). -/
def State.opens (s : State) (cells : Nat) : Nat := if s.openPage ≠ none ∧ cells ≤ s.freeCells then 0 else 1

/-- The cells a staging list needs: its entries' and the marker's (R47). -/
def cellsNeeded : List StagedOp → Nat
  | [] => 1
  | .write _ data :: rest => (1 + (data.length + 15) / 16) + cellsNeeded rest
  | .delete _ :: rest => 1 + cellsNeeded rest
  | .createTally _ _ :: rest => 2 + cellsNeeded rest

/-- Commands executed one after another, stopping at the first that gives no next state. -/
def execAll : List Instr → State → Host.Outcome State Fault Refusal
  | [], s => .next s
  | c :: rest, s =>
    match exec c s with
    | .next t => execAll rest t
    | .fault r => .fault r
    | .refused r => .refused r

end Sys2Proof.Machine
end

