-- ==== Sys2Proof/Certificates/Slice0/Obligations.lean ====
section
/-! DEFINITION. The statements for the provers, in the order of OBLIGATIONS.json. A statement of a command's effect
concludes with the whole next state, so it says what the command leaves unchanged too. -/

open Sys2Proof Sys2Proof.Machine

/-! ### The step and its invariants -/

/-- A step executes the command at the front of the queue on the state with the queue's rest; with no command waiting
the block idles (log entry 1). -/
def Obligations.StepRunsTheFrontCommand : Prop :=
  (∀ (c : Instr) (rest : List Instr) (s : State),
      step { s with pending := c :: rest } = exec c { s with pending := rest }) ∧
    ∀ s : State, s.pending = [] → step s = .next s

/-- Every command answers a next state in every state, and leaves the queue of commands alone. -/
def Obligations.EveryCommandGivesANextState : Prop :=
  ∀ (c : Instr) (s : State), ∃ t, exec c s = .next t ∧ t.pending = s.pending

/-- The state after reset is sound. -/
def Obligations.ResetIsSound : Prop := State.reset.sound

/-- Every step keeps the soundness of the state: the canonical form of the array, the directory's order, the bounds of
the link and of the notice unit, the transaction context's discipline, and the notice queue empty while RESET_N is low and in
the hold of a cold restart. -/
def Obligations.StepKeepsSoundness : Prop := ∀ s t : State, s.sound → step s = .next t → t.sound

/-- The array's cells change at the completion of a program or an erase and at a cold restart cause alone. -/
def Obligations.OnlyCompletionsAndColdCausesChangeCells : Prop :=
  ∀ (c : Instr) (s t : State), exec c s = .next t →
    (∀ o, c ≠ .programComplete o) → (∀ o, c ≠ .eraseComplete o) → c ≠ .brownout → c ≠ .powerOn →
    t.array.cells = s.array.cells

/-- The values the restart rules give every block. That the cause is a power-on, the levels of the pins and the blank array
are the model's choice (log entry 6), and so is the empty queue of commands (log entry 1). -/
def Obligations.ResetHoldsTheRestartValues : Prop :=
  let s := State.reset
  s.pending = [] ∧ s.restarting = none ∧ s.store = .mounting ∧ s.directory = [] ∧ s.carry = [] ∧
    (s.txn.state = .none ∧ s.txn.number = none ∧ s.txn.idleRunning = false ∧ s.txn.staging = []) ∧
    (s.link.rx = .hunt ∧ s.link.received = [] ∧ s.link.byteGapRunning = false ∧ s.link.held = none ∧
      s.link.discarded = 0 ∧ s.link.handlerReply = none ∧ s.link.queue = [] ∧ s.link.replay = [] ∧ s.link.transmit = [] ∧
      s.link.cutOff = false ∧ s.link.waiters = []) ∧
    (s.executor.executing = none ∧ s.executor.reply = none ∧ s.executor.blobRead = none ∧ s.executor.commit = none ∧
      s.executor.increment = none ∧ s.executor.format = none) ∧
    (s.array.inFlight = none ∧ s.array.faulted = [] ∧ s.array.executorRequest = none ∧
      s.array.compactionRequest = none ∧ s.array.mountRequest = some .read) ∧
    (s.compaction.phase = .idle ∧ s.compaction.victim = none ∧ s.compaction.survey = [] ∧ s.compaction.walk = none ∧
      s.compaction.victimCounts = [] ∧ s.compaction.folded = [] ∧ s.compaction.drops = [] ∧ s.compaction.spend = 0 ∧
      s.compaction.failures = 0 ∧ s.compaction.runVictims = 0 ∧ s.compaction.runReclaimed = 0 ∧
      s.compaction.hostDemand = 0 ∧ s.compaction.automaticDemand = false ∧ s.compaction.action = .none ∧
      s.compaction.run = none ∧ s.compaction.surveyed = [] ∧ s.compaction.stopping = false) ∧
    (s.mount = some
      { closing := none, readIndex := 0, pageWords := [], scans := [], result := none, toErase := [], retried := false,
        eraseCount := 0, erasedCount := 0, retiredCount := 0 }) ∧
    (s.notices.queue = [] ∧ s.notices.outgoing = [] ∧ s.notices.deferred = false ∧ s.notices.nextNumber = 1 ∧
      s.notices.startAcknowledged = false ∧ s.notices.earlierCauses = [] ∧ s.notices.currentCause = .powerOn) ∧
    (s.supply.state = .normal ∧ s.supply.cautionRunning = false ∧ s.supply.recoveryRunning = false)

/-! ### Formats -/

/-- The validity of header cells: code and check field, the number of a valid header alone, the blank cell, and the
header codes that start no entry. -/
def Obligations.HeaderCellValidity : Prop :=
  (∀ (w : CellWord) (n : Nat), wearCount w = some n ↔
      cellByte w 0 = 0xE1 ∧ w.extractLsb' 0 16 = headerCheck w ∧ n = cellField w 4 4) ∧
    (∀ (w : CellWord) (n : Nat), openSequence w = some n ↔
      cellByte w 0 = 0xE2 ∧ w.extractLsb' 0 16 = headerCheck w ∧ n = cellField w 4 4) ∧
    ((List.range 16).map (cellByte blankCell) = List.replicate 16 0 ∧ headerCheck blankCell ≠ 0 ∧
      wearCount blankCell = none ∧ openSequence blankCell = none ∧ ∀ rest, judgeEntry (blankCell :: rest) = none) ∧
    ∀ (w : CellWord) (rest : List CellWord), cellByte w 0 = 0xE1 ∨ cellByte w 0 = 0xE2 → judgeEntry (w :: rest) = none

/-- Every entry the device composes is judged valid where it stands whole, with every field as written, every header cell
reads back its number, and the data of a BLOB reads back from the cells after its first, byte for byte. -/
def Obligations.WhatIsWrittenIsJudgedValid : Prop :=
  (∀ n : Nat, n < 2 ^ 32 → wearCount (wearHeader n) = some n ∧ openSequence (openHeader n) = some n) ∧
  (∀ (flags : Byte) (ident txn gen : Nat) (data : List Byte) (rest : List CellWord),
      1 ≤ ident → ident ≤ 4094 → txn < 2 ^ 32 → 1 ≤ gen → gen < 2 ^ 32 → data.length ≤ 240 →
      judgeEntry (entryWords (.blob flags ident txn gen data.length) data ++ rest)
        = some (.blob flags ident txn gen data.length)) ∧
    (∀ (flags : Byte) (ident txn gen value : Nat) (rest : List CellWord),
      1 ≤ ident → ident ≤ 4094 → txn < 2 ^ 32 → 1 ≤ gen → gen < 2 ^ 32 → value < 2 ^ 32 →
      judgeEntry (entryWords (.tallyBase flags ident txn gen value) [] ++ rest)
        = some (.tallyBase flags ident txn gen value)) ∧
    (∀ (flags : Byte) (ident txn gen : Nat) (rest : List CellWord),
      1 ≤ ident → ident ≤ 4094 → txn < 2 ^ 32 → 1 ≤ gen → gen < 2 ^ 32 →
      judgeEntry (entryWords (.tombstone flags ident txn gen) [] ++ rest) = some (.tombstone flags ident txn gen)) ∧
    (∀ (ordinal ident delta gen : Nat) (rest : List CellWord),
      1 ≤ ordinal → ordinal ≤ 32 → 1 ≤ ident → ident ≤ 4094 → 1 ≤ delta → delta < 2 ^ 16 → 1 ≤ gen → gen < 2 ^ 32 →
      judgeEntry (entryWords (.bump ordinal ident delta gen) [] ++ rest) = some (.bump ordinal ident delta gen)) ∧
    (∀ (txn count : Nat) (rest : List CellWord), txn < 2 ^ 32 → count < 256 →
      judgeEntry (entryWords (.marker txn count) [] ++ rest) = some (.marker txn count)) ∧
    (∀ (victim sequence : Nat) (rest : List CellWord), victim ≤ 31 → sequence < 2 ^ 32 →
      judgeEntry (entryWords (.release victim sequence) [] ++ rest) = some (.release victim sequence)) ∧
    (∀ rest : List CellWord, judgeEntry (entryWords .formatMark [] ++ rest) = some .formatMark) ∧
    ∀ (flags : Byte) (ident txn gen : Nat) (data : List Byte), data.length ≤ 240 →
      (entryWords (.blob flags ident txn gen data.length) data).length = 1 + (data.length + 15) / 16 ∧
        (((entryWords (.blob flags ident txn gen data.length) data).drop 1).flatMap cellBytes).take data.length = data

/-! ### The receiver -/

/-- The characters of a good frame, received in HUNT, are the request they carry (log entry 2), by the request codes of 11.2,
spelled here; a good frame of no known kind is answered UNKNOWN_KIND by the handler. -/
def Obligations.FrameCharactersActAsTheRequest : Prop :=
  ([RequestKind.status, .abandon, .ackNotice, .pollNotice, .restart].map requestCode = [0x01, 0x02, 0x03, 0x04, 0x05] ∧
    [RequestKind.read, .list, .wear, .getReport].map requestCode = [0x10, 0x11, 0x12, 0x13] ∧
    [RequestKind.beginTxn, .stageWrite, .stageDelete, .stageTally, .commit, .increment, .compact, .format].map requestCode
      = [0x20, 0x21, 0x22, 0x23, 0x24, 0x25, 0x26, 0x27]) ∧
  ∀ (tag : Byte) (payload : List Byte) (s : State),
    payload.length ≤ 253 → s.link.rx = .hunt → s.link.received = [] → s.link.byteGapRunning = false →
    let received (kind : Byte) : Host.Outcome State Fault Refusal :=
      let body : List Byte := BitVec.ofNat 8 (payload.length + 2) :: kind :: tag :: payload
      execAll ((0xB7 :: body ++ checkBytes (checkValue body)).map (fun b => Instr.receiveCharacter b true)) s
    (∀ kind : RequestKind, received (requestCode kind) = exec (commandOf kind tag payload) s) ∧
    ∀ kind : Byte, (∀ k, requestCode k ≠ kind) → s.takesNow → s.nothingToTake →
      received kind = .next (s.handlerAnswered { kind := kind + 0x80, tag, payload := [0x03] })

/-- A character by the state that receives it. A bad stop bit and the expiry of the byte-gap timer discard the frame in
progress, and the count saturates. That the expiry of a stopped timer does nothing is the model's choice (log entry 4). -/
def Obligations.CharacterByReceiverState : Prop :=
  ∀ (v len : Byte) (body : List Byte) (s : State), s.restarting = none → s.supply.resetNHigh = true →
    let hunted : Link := { s.link with rx := .hunt, received := [], byteGapRunning := false }
    let discarded : State := { s with link := { hunted with discarded := min (s.link.discarded + 1) 65535 } }
    let kept (rx : RxState) : State :=
      { s with link := { s.link with rx, received := s.link.received ++ [v], byteGapRunning := true } }
    (s.link.rx ≠ .hunt → exec (.receiveCharacter v false) s = .next discarded) ∧
    (s.link.rx = .hunt → exec (.receiveCharacter v false) s = .next s) ∧
    (s.link.byteGapRunning = true → exec .byteGapTimerExpiry s = .next discarded) ∧
    (s.link.byteGapRunning = false → exec .byteGapTimerExpiry s = .next s) ∧
    (s.link.rx = .hunt → v = 0xB7 → exec (.receiveCharacter v true) s
      = .next { s with link := { s.link with rx := .length, received := [], byteGapRunning := true } }) ∧
    (s.link.rx = .hunt → v ≠ 0xB7 → exec (.receiveCharacter v true) s = .next s) ∧
    (s.link.rx = .length → 2 ≤ v.toNat → exec (.receiveCharacter v true) s = .next (kept .body)) ∧
    (s.link.rx = .length → v.toNat < 2 → exec (.receiveCharacter v true) s = .next discarded) ∧
    (s.link.rx = .body → s.link.received = len :: body → body.length < len.toNat →
      exec (.receiveCharacter v true) s = .next (kept (if body.length + 1 = len.toNat then .check else .body))) ∧
    (s.link.rx = .check → s.link.received = len :: body → body.length = len.toNat →
      exec (.receiveCharacter v true) s = .next (kept .check)) ∧
    ∀ c : Byte, s.link.rx = .check → s.link.received = len :: body ++ [c] → body.length = len.toNat →
      (checkBytes (checkValue (len :: body)) ≠ [c, v] → exec (.receiveCharacter v true) s = .next discarded) ∧
      ∀ kind tag payload, checkBytes (checkValue (len :: body)) = [c, v] → body = requestCode kind :: tag :: payload →
        exec (.receiveCharacter v true) s = exec (commandOf kind tag payload) { s with link := hunted }

/-- While a frame of the handler waits for a place, a good frame is held, and a further one is an overrun. A free handler
takes the held frame as it would the request. That this is a command of its own is the model's choice (log entry 3), and so
is that the command does nothing with no frame held, or while the handler is busy (log entry 4). -/
def Obligations.OneFrameIsHeld : Prop :=
  ∀ (kind : RequestKind) (tag : Byte) (payload : List Byte) (s : State), s.restarting = none →
    let taken : State := { s with link := { s.link with held := none } }
    (s.supply.resetNHigh = true → s.link.handlerReply ≠ none → s.link.held = none → exec (commandOf kind tag payload) s
      = .next { s with link := { s.link with held := some { kind := requestCode kind, tag, payload } } }) ∧
    (s.supply.resetNHigh = true → s.link.handlerReply ≠ none → s.link.held ≠ none → exec (commandOf kind tag payload) s
      = .next { s with link := { s.link with discarded := min (s.link.discarded + 1) 65535 } }) ∧
    (s.supply.resetNHigh = true → s.link.handlerReply = none →
      s.link.held = some { kind := requestCode kind, tag, payload } →
      exec .heldFrameTaken s = exec (commandOf kind tag payload) taken) ∧
    (taken.answersNow → s.nothingToTake → s.link.held = some { kind := 0x05, tag, payload := [] } →
      exec .heldFrameTaken s = .next (taken.withFrame { kind := 0x85, tag, payload := [0x00] })) ∧
    (s.link.held = none ∨ s.link.handlerReply ≠ none → exec .heldFrameTaken s = .next s)

/-! ### The request handler and the transmit queue -/

/-- An immediate request that breaks its layout or ranges is answered BAD_ARGS, with no other effect. -/
def Obligations.ImmediateBadArguments : Prop :=
  ∀ (kind : RequestKind) (tag : Byte) (payload : List Byte) (s : State),
    kind ∈ [.status, .abandon, .ackNotice, .pollNotice, .restart] → ¬payloadValid kind payload →
    s.takesNow → s.nothingToTake →
    exec (commandOf kind tag payload) s
      = .next (s.handlerAnswered { kind := requestCode kind + 0x80, tag, payload := [0x04] })

/-- The checks a frame of a queued kind meets, in order; the payload is not looked at. -/
def Obligations.QueuedRequestChecks : Prop :=
  ∀ (kind : RequestKind) (tag : Byte) (payload : List Byte) (s : State),
    kind ∉ [.status, .abandon, .ackNotice, .pollNotice, .restart] → s.answersNow → s.nothingToTake →
    let answered (reply : List Byte) : Host.Outcome State Fault Refusal :=
      .next (s.withFrame { kind := requestCode kind + 0x80, tag, payload := reply })
    let tagHeld : Prop := (∃ r ∈ s.link.queue, r.tag = tag) ∨ ∃ r, s.executor.executing = some r ∧ r.tag = tag
    let repeats (e : ReplayEntry) : Prop := kind ∉ [.read, .list, .wear, .getReport] ∧ e.tag = tag ∧ e.kind = kind ∧
      e.check = frameCheck (requestCode kind) tag payload
    (s.store = .mounting ∨ s.store = .formatting → exec (commandOf kind tag payload) s = answered [0x05]) ∧
    (s.store = .ready ∨ s.store = .readOnly →
      (tagHeld → exec (commandOf kind tag payload) s = answered [0x02]) ∧
      (¬tagHeld → ∀ (older newer : List ReplayEntry) (e : ReplayEntry), s.link.replay = older ++ e :: newer →
        (∀ x ∈ older, ¬repeats x) → repeats e → exec (commandOf kind tag payload) s = answered e.reply) ∧
      (¬tagHeld → (∀ e ∈ s.link.replay, ¬repeats e) →
        (4 ≤ s.link.queue.length → exec (commandOf kind tag payload) s = answered [0x01]) ∧
        (s.link.queue.length < 4 → s.executor.executing ≠ none → exec (commandOf kind tag payload) s
          = .next { s with link := { s.link with queue := s.link.queue ++ [{ kind, tag, payload }] } })))

/-- A queued request that breaks its layout or ranges is answered BAD_ARGS as the executor takes it, before every other
check, with no other effect; a mutating one enters the replay table. -/
def Obligations.QueuedBadArguments : Prop :=
  ∀ (kind : RequestKind) (tag : Byte) (payload : List Byte) (s : State),
    kind ∉ [.status, .abandon, .ackNotice, .pollNotice, .restart] → ¬payloadValid kind payload →
    s.executesNow kind tag payload → exec (commandOf kind tag payload) s = .next (s.replied kind tag payload [0x04])

/-- The replay table when an entry is made: an entry of the same tag is replaced as the newest, and otherwise the oldest
of eight is removed. -/
def Obligations.ReplayTableInsertion : Prop :=
  ∀ (t : List ReplayEntry) (e : ReplayEntry), t.length ≤ 8 → (t.map ReplayEntry.tag).Nodup →
    (∀ (older newer : List ReplayEntry) (x : ReplayEntry), t = older ++ x :: newer → x.tag = e.tag →
      replayInsert t e = older ++ newer ++ [e]) ∧
    ((∀ x ∈ t, x.tag ≠ e.tag) → t.length < 8 → replayInsert t e = t ++ [e]) ∧
    ∀ (x : ReplayEntry) (rest : List ReplayEntry), (∀ y ∈ t, y.tag ≠ e.tag) → t.length = 8 → t = x :: rest →
      replayInsert t e = rest ++ [e]

/-- The frame at the head leaves the transmit queue when it has been sent. RESTART is answered OK in every store state,
and the device runs on until that reply has been sent, which begins a warm restart. That FRAME_SENT does nothing with an
empty queue, in a device that is restarting and with RESET_N low is the model's choice (log entries 4 and 21), and so is the
field for the good supply (log entry 21). -/
def Obligations.RestartBeginsWhenItsReplyIsSent : Prop :=
  (∀ (tag : Byte) (s : State), s.answersNow → s.nothingToTake →
    exec (.restart tag []) s = .next (s.withFrame { kind := 0x85, tag, payload := [0x00] })) ∧
  ∀ (f : Frame) (rest : List Frame) (s : State),
    (s.restarting = none → s.supply.resetNHigh = true → s.link.transmit = f :: rest →
      (f.kind ≠ 0x85 ∨ f.payload ≠ [0x00] → exec .frameSent s
        = .next { s with link := { s.link with transmit := rest } }) ∧
      (f.kind = 0x85 → f.payload = [0x00] → exec .frameSent s = .next { s with
        link := { s.link with transmit := rest }
        restarting := some { cause := .restartRequest, cold := false, needsResetHigh := false }
        supply := { s.supply with vddGood := false } })) ∧
    (s.restarting ≠ none ∨ s.supply.resetNHigh = false ∨ s.link.transmit = [] → exec .frameSent s = .next s)

/-- The producer that began to wait first places its frame into a free place: the handler, the executor, whose request
then no longer executes, and the notice unit, whose further frames have turns of their own (log entry 22). That this is a
command of its own, which does nothing with no producer waiting or no free place, is the model's choice (log entries 3
and 4). -/
def Obligations.FirstWaitingProducerPlaces : Prop :=
  ∀ (f : Frame) (more : List Frame) (others : List Producer) (s : State), s.restarting = none →
    (6 ≤ s.link.transmit.length → exec .waitingProducerPlaces s = .next s) ∧
    (s.link.transmit.length < 6 →
    (s.link.waiters = .handler :: others → s.link.handlerReply = some f → exec .waitingProducerPlaces s
      = .next { s with link := { s.link with
          waiters := others, handlerReply := none, transmit := s.link.transmit ++ [f] } }) ∧
    (s.link.waiters = .executor :: others → s.executor.reply = some f → s.link.queue = [] →
      exec .waitingProducerPlaces s = .next { s with
        link := { s.link with waiters := others, transmit := s.link.transmit ++ [f] }
        executor := { s.executor with reply := none, executing := none } }) ∧
    (s.link.waiters = .noticeUnit :: others → s.notices.outgoing = f :: more → exec .waitingProducerPlaces s
      = .next { s with
        link := { s.link with waiters := others, transmit := s.link.transmit ++ [f] }
        notices := { s.notices with outgoing := more } }) ∧
    (s.link.waiters = [] → exec .waitingProducerPlaces s = .next s))

/-! ### Immediate requests -/

/-- STATUS answers OK with the status record; with the flag at 1 the discarded-frame count becomes 0 after it has been
taken for the reply. The record has 25 bytes, here in order in READY and READ_ONLY, in FORMATTING and in MOUNTING. -/
def Obligations.StatusAnswersTheRecord : Prop :=
  (∀ (tag : Byte) (s : State), s.takesNow → s.nothingToTake →
    exec (.status tag [0]) s = .next (s.handlerAnswered { kind := 0x81, tag, payload := 0x00 :: s.statusRecord }) ∧
      exec (.status tag [1]) s = .next (State.handlerAnswered { s with link := { s.link with discarded := 0 } }
        { kind := 0x81, tag, payload := 0x00 :: s.statusRecord })) ∧
  ∀ s : State,
    let transaction : List Byte :=
      [(match s.txn.state with | .none => 0 | .opened => 1 | .committing => 2 : Byte)] ++ beBytes 4 (s.txn.number.getD 0)
        ++ beBytes 1 s.txn.staging.length ++ beBytes 2 (dataBytes s.txn.staging)
    let requests : List Byte :=
      beBytes 1 s.link.queue.length ++ [match s.executor.executing with | some r => requestCode r.kind | none => 0]
    let rest : List Byte :=
      [(match s.supply.state with | .normal => 0 | .caution => 1 | .cautionLong => 2 : Byte)]
        ++ beBytes 1 s.notices.queue.length ++ beBytes 2 s.link.discarded
    s.statusRecord.length = 25 ∧
    (s.store = .ready ∨ s.store = .readOnly → s.statusRecord
      = [(if s.store = .ready then 2 else 3 : Byte)] ++ transaction ++ requests
        ++ [(match s.compaction.phase with | .idle => 0 | .select => 1 | .copy => 2 | .release => 3 | .erase => 4 : Byte)]
        ++ [match s.compaction.victim with | some v => BitVec.ofNat 8 v.val | none => 0xFF]
        ++ beBytes 1 (s.countIn .erased) ++ beBytes 1 (s.countIn .sealed) ++ beBytes 1 (s.countIn .retired)
        ++ beBytes 1 s.freeCells ++ beBytes 2 s.directory.length ++ beBytes 2 s.tombstoneCount ++ rest) ∧
    (s.store = .formatting → s.statusRecord
      = [1] ++ transaction ++ requests ++ [0, 0xFF] ++ List.replicate 4 0 ++ beBytes 2 s.directory.length
        ++ beBytes 2 s.tombstoneCount ++ rest) ∧
    (s.store = .mounting → s.txn.state = .none → s.txn.number = none → s.txn.staging = [] → s.link.queue = [] →
      s.executor.executing = none →
      s.statusRecord = List.replicate 12 0 ++ [0xFF] ++ List.replicate 8 0 ++ rest)

/-- ABANDON by the transaction context: NONE, another number, and OPEN with its number. COMMITTING with its number before
the marker grant, it ends the transaction and is answered OK: with a program of the commit in flight the commit stops at its
completion; else it stops at once, and the COMMIT is answered ABANDONED behind the ABANDON's reply (log entry 15). After
the marker grant it is answered TOO_LATE, and the commit goes on. -/
def Obligations.AbandonByTheTransaction : Prop :=
  ∀ (tag : Byte) (payload : List Byte) (s : State), payloadValid .abandon payload →
    (s.takesNow → s.nothingToTake → s.txn.state = .committing → s.txn.number = some (beNat payload) →
      ∀ c, s.executor.commit = some c → c.markerGranted = true →
        exec (.abandon tag payload) s = .next (s.handlerAnswered { kind := 0x82, tag, payload := [0x41] })) ∧
    (s.answersNow →
    let reply (t : State) (r : Byte) : State := t.withFrame { kind := 0x82, tag, payload := [r] }
    let outcome := exec (.abandon tag payload) s
    let ended : State := reply
      { s with txn := { s.txn with state := .none, number := none, idleRunning := false, staging := [] } } 0x00
    (s.nothingToTake → s.txn.state = .none → outcome = .next (reply s 0x20)) ∧
    (s.nothingToTake → s.txn.state ≠ .none → s.txn.number ≠ some (beNat payload) → outcome = .next (reply s 0x22)) ∧
    (s.nothingToTake → s.txn.state = .opened → s.txn.number = some (beNat payload) → outcome = .next ended) ∧
    ∀ c r, s.txn.state = .committing → s.txn.number = some (beNat payload) → s.executor.commit = some c →
      c.markerGranted = false → s.executor.executing = some r →
      (∀ f, s.array.inFlight = some f → f.owner = some .executor →
        outcome = .next { ended with array := { ended.array with executorRequest := none } }) ∧
      (s.array.inFlight = none → c.run = none → s.link.queue = [] → s.link.transmit.length < 5 →
        outcome = .next (State.answered { ended with
          array := { ended.array with executorRequest := none }
          executor := { ended.executor with commit := none } } r [0x40])))

/-- ACK_NOTICE removes the notice with the number and every one before it, with their waiting frames; START among them
counts as acknowledged, and ALERT_N goes high when none is left. A number no queued notice has is answered NO_NOTICE. -/
def Obligations.AckNoticeRemovesThrough : Prop :=
  ∀ (tag number : Byte) (s : State), number ≠ 0 → s.takesNow → s.nothingToTake →
    (∀ (before after : List Notice) (n : Notice), s.notices.queue = before ++ n :: after → n.number = number.toNat →
      (∀ x ∈ before, x.number ≠ number.toNat) →
      let started : Bool := (before ++ [n]).any (fun x => noticeCode x.content == 0x60)
      let belongs (f : Frame) : Bool := after.any (fun x => BitVec.ofNat 8 x.number == f.tag)
      let t : State := { s with
        notices := { s.notices with
          queue := after
          outgoing := s.notices.outgoing.filter belongs
          startAcknowledged := s.notices.startAcknowledged || started
          earlierCauses := if started then [] else s.notices.earlierCauses }
        link := { s.link with waiters := keepTurns belongs s.notices.outgoing s.link.waiters } }
      exec (.ackNotice tag [number]) s = .next (t.handlerAnswered
        { kind := 0x83, tag, payload := [0x00] ++ beBytes 1 (before.length + 1) ++ beBytes 1 after.length }) ∧
      (t.alertNLow = true ↔ after ≠ [])) ∧
    ((∀ x ∈ s.notices.queue, x.number ≠ number.toNat) →
      exec (.ackNotice tag [number]) s = .next (s.handlerAnswered { kind := 0x83, tag, payload := [0x61] }))

/-- POLL_NOTICE reports the oldest notice, or EMPTY, and changes nothing. -/
def Obligations.PollNoticeReportsTheOldest : Prop :=
  ∀ (tag : Byte) (s : State), s.takesNow → s.nothingToTake →
    (s.notices.queue = [] → exec (.pollNotice tag []) s
      = .next (s.handlerAnswered { kind := 0x84, tag, payload := [0x60] })) ∧
    (∀ (n : Notice) (rest : List Notice), s.notices.queue = n :: rest → exec (.pollNotice tag []) s
      = .next (s.handlerAnswered { kind := 0x84, tag, payload :=
          ([0x00] ++ beBytes 1 n.number ++ [noticeCode n.content] ++ beBytes 1 n.lost ++ noticeBytes n.content) })) ∧
    ∀ payload, payload ≠ [] → exec (.pollNotice tag payload) s
      = .next (s.handlerAnswered { kind := 0x84, tag, payload := [0x04] })

/-! ### Read-only requests -/

/-- READ by the directory: NOT_FOUND for no entry and for a TOMBSTONE, the value of a TALLY, and for a BLOB a read of
the array is requested. -/
def Obligations.ReadByTheDirectory : Prop :=
  ∀ (tag : Byte) (payload : List Byte) (s : State), payloadValid .read payload → s.executesNow .read tag payload →
    (s.entryOf (beNat payload) = none → exec (.read tag payload) s = .next (s.replied .read tag payload [0x10])) ∧
    ∀ e, s.entryOf (beNat payload) = some e →
      (e.body = .tombstone → exec (.read tag payload) s = .next (s.replied .read tag payload [0x10])) ∧
      (∀ value bumps, e.body = .tally value bumps → exec (.read tag payload) s
        = .next (s.replied .read tag payload ([0x00, 0x02] ++ beBytes 4 e.gen ++ beBytes 4 value))) ∧
      ∀ length, e.body = .blob length → exec (.read tag payload) s = .next { s with
        executor := { s.executor with
          executing := some { kind := .read, tag, payload }, blobRead := some (beNat payload) }
        array := { s.array with executorRequest := some .read } }

/-- The read of a BLOB completes: its data where the entry read agrees with the directory in its check, kind, identifier
and generation, and MEDIA_FAULT otherwise; directory and page table stand. A run of cells reads as its known cells hold,
an indeterminate one as the operand says, and beyond the operand as a free value, whose index the read advances (log entry
5). -/
def Obligations.BlobReadIsAnswered : Prop :=
  (∀ (noise : List CellWord) (ident length first count : Nat) (page : PageIx) (e : DirEntry) (r : Request) (s : State),
    s.array.inFlight = some { owner := some .executor, op := .read page first count } → s.finishes r →
    s.executor.blobRead = some ident → s.entryOf ident = some e → e.body = .blob length →
    let got := s.array.cells.readRun (cellAddress page first) count noise s.freeIndex
    let header := got.1.headD blankCell
    let agrees : Prop := checkMatches got.1 = true ∧ cellByte header 0 = 0x01 ∧ cellField header 2 2 = e.ident ∧
      cellField header 8 4 = e.gen
    let t : State := { s with
      array := { s.array with inFlight := none }
      freeIndex := got.2
      executor := { s.executor with blobRead := none } }
    (agrees → exec (.readComplete noise) s = .next (t.answered r
      ([0x00, 0x01] ++ beBytes 4 e.gen ++ beBytes 1 length ++ ((got.1.drop 1).flatMap cellBytes).take length))) ∧
    (¬agrees → exec (.readComplete noise) s = .next (t.answered r [0x32]))) ∧
  (∀ (m : Memory) (a n k : Nat) (noise : List CellWord) (words : Nat → CellWord),
    (∀ i, i < n → m.read (a + i) = .word (words i)) →
    m.readRun a n noise k = ((List.range n).map words, k)) ∧
  (∀ (m : Memory) (a n k : Nat) (noise : List CellWord), (m.readRun a n noise k).1.length = n) ∧
  ∀ (m : Memory) (a k : Nat), m.read a = .indeterminate →
    (∀ x rest, m.readRun a 1 (x :: rest) k = ([x], k)) ∧
      m.readRun a 1 [] k = ([Config.indeterminateCell k], k + 1)

/-- LIST: the entries from the first identifier on, up to the maximum count, with the MORE flag; arguments out of range
are answered BAD_ARGS. -/
def Obligations.ListWalksTheDirectory : Prop :=
  ∀ (tag : Byte) (payload : List Byte) (before rest : List DirEntry) (s : State), s.executesNow .list tag payload →
    let first := beNat (payload.take 2)
    let count := beNat (payload.drop 2)
    let entryBytes (e : DirEntry) : List Byte :=
      beBytes 2 e.ident ++ [(match e.body with | .blob _ => 0x01 | .tally _ _ => 0x02 | .tombstone => 0x03 : Byte)]
        ++ beBytes 4 e.gen ++ beBytes 1 (match e.body with | .blob length => length | .tally _ _ => 0 | .tombstone => 0)
    (payloadValid .list payload → s.directory = before ++ rest → (∀ e ∈ before, e.ident < first) →
      (∀ e ∈ rest, first ≤ e.ident) → exec (.list tag payload) s = .next (s.replied .list tag payload
        ([0x00] ++ beBytes 1 (rest.take count).length ++ [if (rest.take count).length < rest.length then 1 else 0]
          ++ (rest.take count).flatMap entryBytes))) ∧
    (¬payloadValid .list payload → exec (.list tag payload) s = .next (s.replied .list tag payload [0x04]))

/-- WEAR: one record per page in ascending order, an ERASED or RETIRED page showing used cells 2 and live cells 0; limits
broken are answered BAD_ARGS, and MOUNTING and FORMATTING NOT_READY. -/
def Obligations.WearReportsThePageTable : Prop :=
  ∀ (tag : Byte) (payload : List Byte) (s : State),
    let first := beNat (payload.take 1)
    let count := beNat (payload.drop 1)
    let record (r : PageRec) : List Byte :=
      [(match r.state with
        | .erased => 0x00 | .opened => 0x01 | .sealed => 0x02 | .victim => 0x03 | .retired => 0x04
        | .pendingErase => 0x00 : Byte)]
        ++ beBytes 4 r.eraseCount
        ++ (match r.state with
          | .erased => [2, 0] | .retired => [2, 0] | _ => beBytes 1 r.used ++ beBytes 1 r.live)
    (s.executesNow .wear tag payload → payloadValid .wear payload → exec (.wear tag payload) s
      = .next (s.replied .wear tag payload ([0x00] ++ beBytes 1 first ++ beBytes 1 count
          ++ (List.range count).flatMap (fun k => record (s.page (Fin.ofNat 32 (first + k))))))) ∧
    (s.executesNow .wear tag payload → ¬payloadValid .wear payload →
      exec (.wear tag payload) s = .next (s.replied .wear tag payload [0x04])) ∧
    (s.answersNow → s.store = .mounting ∨ s.store = .formatting →
      exec (.wear tag payload) s = .next (s.withFrame { kind := 0x92, tag, payload := [0x05] }))

/-- GET_REPORT answers OK with the report record, which has 24 bytes, here in order; the content of each notice, of which
START's is that record; and the notice codes of 11.2. -/
def Obligations.GetReportAnswersTheRecord : Prop :=
  (∀ (tag : Byte) (s : State), s.executesNow .getReport tag [] →
    exec (.getReport tag []) s = .next (s.replied .getReport tag [] ([0x00] ++ reportBytes s.notices.report))) ∧
  (∀ r : Report,
    let code (c : Cause) : Byte :=
      match c with | .powerOn => 1 | .brownout => 2 | .resetLine => 3 | .restartRequest => 4
    (reportBytes r).length = 24 ∧
    (r.earlier.length ≤ 4 → reportBytes r
      = [code r.cause] ++ beBytes 1 r.earlier.length ++ r.earlier.map code ++ List.replicate (4 - r.earlier.length) (0 : Byte)
        ++ [(match r.summary.store with | .mounting => 0 | .formatting => 1 | .ready => 2 | .readOnly => 3 : Byte)]
        ++ beBytes 1 r.summary.erasedPages ++ beBytes 1 r.summary.openPages ++ beBytes 1 r.summary.sealedPages
        ++ beBytes 1 r.summary.retiredPages ++ beBytes 1 r.summary.pagesErased ++ beBytes 1 r.summary.pagesRetired
        ++ beBytes 2 r.summary.torn ++ beBytes 4 r.summary.lastCommitted ++ beBytes 2 r.summary.liveRecords
        ++ beBytes 2 r.summary.tombstones
        ++ [match r.summary.formatMark, r.summary.truncated with
          | false, false => (0 : Byte) | true, false => 1 | false, true => 2 | true, true => 3]) ∧
    noticeBytes (.start r) = reportBytes r) ∧
  (∀ victims reclaimed erased : Nat,
    noticeBytes (.compacted victims reclaimed erased) = beBytes 1 victims ++ beBytes 2 reclaimed ++ beBytes 1 erased) ∧
  (∀ erased : Nat, noticeBytes (.spaceLow erased) = beBytes 1 erased) ∧
  (∀ page : PageIx, noticeBytes (.media page .programRetriesExhausted) = [BitVec.ofNat 8 page.val, 1] ∧
    noticeBytes (.media page .pageRetired) = [BitVec.ofNat 8 page.val, 2]) ∧
  (∀ number : Nat, noticeBytes (.txnExpired number) = beBytes 4 number) ∧
  (noticeBytes (.supply .cautionLongBegin) = [1] ∧ noticeBytes (.supply .normalAgain) = [2]) ∧
  (∀ r : Report, noticeCode (.start r) = 0x60) ∧
  (∀ victims reclaimed erased : Nat, noticeCode (.compacted victims reclaimed erased) = 0x61) ∧
  (∀ erased : Nat, noticeCode (.spaceLow erased) = 0x62) ∧
  (∀ (page : PageIx) (event : MediaEvent), noticeCode (.media page event) = 0x63) ∧
  (∀ number : Nat, noticeCode (.txnExpired number) = 0x64) ∧ ∀ event : SupplyEvent, noticeCode (.supply event) = 0x65

/-! ### Transactions and staging -/

/-- BEGIN: its checks in order, and on OK an OPEN transaction with the next number, an empty staging list and the idle
timer started. -/
def Obligations.BeginOpensATransaction : Prop :=
  ∀ (tag : Byte) (s : State), s.executesNow .beginTxn tag [] →
    let answered (reply : List Byte) : Host.Outcome State Fault Refusal := .next (s.replied .beginTxn tag [] reply)
    (s.txn.state ≠ .none → exec (.beginTxn tag []) s = answered [0x21]) ∧
    (s.txn.state = .none → s.store = .readOnly → exec (.beginTxn tag []) s = answered [0x06]) ∧
    (s.txn.state = .none → s.store ≠ .readOnly → s.supply.state = .cautionLong →
      exec (.beginTxn tag []) s = answered [0x33]) ∧
    (s.txn.state = .none → s.store ≠ .readOnly → s.supply.state ≠ .cautionLong → s.txn.nextNumber = 4294967295 →
      exec (.beginTxn tag []) s = answered [0x51]) ∧
    (s.txn.state = .none → s.store ≠ .readOnly → s.supply.state ≠ .cautionLong → s.txn.nextNumber ≠ 4294967295 →
      exec (.beginTxn tag []) s = .next (State.replied
        { s with txn := {
            state := .opened, number := some s.txn.nextNumber, idleRunning := true, nextNumber := s.txn.nextNumber + 1,
            staging := [] } }
        .beginTxn tag [] ([0x00] ++ beBytes 4 s.txn.nextNumber)))

/-- The checks that STAGE requests and COMMIT share, in order: NO_TXN, WRONG_TXN, READ_ONLY and SUPPLY_LOW, with no other
effect. -/
def Obligations.TransactionChecks : Prop :=
  ∀ (kind : RequestKind) (tag : Byte) (payload : List Byte) (s : State),
    kind ∈ [.stageWrite, .stageDelete, .stageTally, .commit] → payloadValid kind payload →
    s.executesNow kind tag payload →
    let answered (r : Byte) : Prop := exec (commandOf kind tag payload) s = .next (s.replied kind tag payload [r])
    let matching : Prop := s.txn.state = .opened ∧ s.txn.number = some (beNat (payload.take 4))
    (s.txn.state ≠ .opened → answered 0x20) ∧
    (s.txn.state = .opened → s.txn.number ≠ some (beNat (payload.take 4)) → answered 0x22) ∧
    (matching → s.store = .readOnly → answered 0x06) ∧
    (matching → s.store ≠ .readOnly → s.supply.state = .cautionLong → answered 0x33)

/-- STAGE_WRITE: refused over a TALLY, added where nothing is staged, and put in the place of a staged WRITE, or of a
staged DELETE. -/
def Obligations.StageWriteEffect : Prop :=
  ∀ (tag : Byte) (number ident : Nat) (data : List Byte) (s : State),
    1 ≤ ident → ident ≤ 4094 → 1 ≤ number → number ≤ 4294967294 → data.length ≤ 240 →
    let payload := beBytes 4 number ++ beBytes 2 ident ++ data
    s.executesNow .stageWrite tag payload → s.accepts number →
    let wrongKind : Prop := exec (.stageWrite tag payload) s = .next (s.replied .stageWrite tag payload [0x11])
    (s.unstaged ident → s.holdsKind ident 2 → wrongKind) ∧
    (s.unstaged ident → ¬s.holdsKind ident 2 →
      s.stagesTo .stageWrite tag payload ident (s.txn.staging ++ [.write ident data])) ∧
    ∀ before op after, s.stagedAt ident before op after →
      ((∃ initial, op = .createTally ident initial) → wrongKind) ∧
      ((∃ old, op = .write ident old) ∨ op = .delete ident →
        s.stagesTo .stageWrite tag payload ident (before ++ .write ident data :: after))

/-- STAGE_TALLY: refused over a live view and over a directory TALLY, added where nothing is staged, and put in the place
of a staged DELETE of a BLOB. -/
def Obligations.StageTallyEffect : Prop :=
  ∀ (tag : Byte) (number ident initial : Nat) (s : State),
    1 ≤ ident → ident ≤ 4094 → 1 ≤ number → number ≤ 4294967294 → initial ≤ 4294967295 →
    let payload := beBytes 4 number ++ beBytes 2 ident ++ beBytes 4 initial
    s.executesNow .stageTally tag payload → s.accepts number →
    let wrongKind : Prop := exec (.stageTally tag payload) s = .next (s.replied .stageTally tag payload [0x11])
    (s.unstaged ident → s.holdsKind ident 1 ∨ s.holdsKind ident 2 → wrongKind) ∧
    (s.unstaged ident → ¬s.holdsKind ident 1 → ¬s.holdsKind ident 2 →
      s.stagesTo .stageTally tag payload ident (s.txn.staging ++ [.createTally ident initial])) ∧
    ∀ before op after, s.stagedAt ident before op after →
      (op ≠ .delete ident ∨ s.holdsKind ident 2 → wrongKind) ∧
      (op = .delete ident → ¬s.holdsKind ident 2 →
        s.stagesTo .stageTally tag payload ident (before ++ .createTally ident initial :: after))

/-- STAGE_DELETE: refused where nothing live is seen, added over a directory BLOB or TALLY, put in the place of what is
staged over one, and otherwise the staged operation is removed. -/
def Obligations.StageDeleteEffect : Prop :=
  ∀ (tag : Byte) (number ident : Nat) (s : State),
    1 ≤ ident → ident ≤ 4094 → 1 ≤ number → number ≤ 4294967294 →
    let payload := beBytes 4 number ++ beBytes 2 ident
    s.executesNow .stageDelete tag payload → s.accepts number →
    let notFound : Prop := exec (.stageDelete tag payload) s = .next (s.replied .stageDelete tag payload [0x10])
    let live : Prop := s.holdsKind ident 1 ∨ s.holdsKind ident 2
    (s.unstaged ident → ¬live → notFound) ∧
    (s.unstaged ident → live → s.stagesTo .stageDelete tag payload ident (s.txn.staging ++ [.delete ident])) ∧
    ∀ before op after, s.stagedAt ident before op after →
      (op = .delete ident → notFound) ∧
      (op ≠ .delete ident → live →
        s.stagesTo .stageDelete tag payload ident (before ++ .delete ident :: after)) ∧
      (op ≠ .delete ident → ¬live →
        exec (.stageDelete tag payload) s = .next (s.staged .stageDelete tag payload (before ++ after)))

/-- The idle timer of an OPEN transaction expires: the transaction is abandoned and TXN_EXPIRED raised with its number;
that it has no effect while the timer is stopped is the model's choice (log entry 4). -/
def Obligations.IdleTimerExpires : Prop :=
  ∀ (number : Nat) (s : State),
    (s.restarting = none → s.txn.state = .opened → s.txn.idleRunning = true → s.txn.number = some number →
      exec .idleTimerExpiry s = .next (State.raise
        { s with txn := { s.txn with state := .none, number := none, idleRunning := false, staging := [] } }
        (.txnExpired number))) ∧
    (s.txn.idleRunning = false → exec .idleTimerExpiry s = .next s)

/-! ### COMMIT, INCREMENT, COMPACT and FORMAT -/

/-- A COMMIT that passes its checks: it waits while the engine holds a victim and fewer than 2 pages are ERASED; else it
requests its first program where the directory and the pages admit it; else it is refused, the transaction returns to OPEN
and the automatic demand is set, which in READY begins a run of an engine that is IDLE. -/
def Obligations.CommitAdmission : Prop :=
  ∀ (tag : Byte) (payload : List Byte) (s : State),
    payloadValid .commit payload → s.executesNow .commit tag payload → s.accepts (beNat payload) →
    let ops := s.txn.staging
    let room : Prop := (ops.filter (fun op => (s.entryOf (opIdent op)).isNone)).length ≤ 512 - s.directory.length
    let space : Prop := s.opens (cellsNeeded ops) + 2 ≤ s.erasedCount
    let began (stage : CommitStage) (ask : Option RequestOp) : State := { s with
      txn := { s.txn with state := .committing, idleRunning := false }
      executor := { s.executor with
        executing := some { kind := .commit, tag, payload }
        commit := some { CommitRecord.fresh ops.length with stage } }
      array := { s.array with executorRequest := ask } }
    let refused (r : Byte) : State := State.replied { s with
      txn := { s.txn with idleRunning := true }
      executor := { s.executor with commit := none }
      array := { s.array with executorRequest := none } } .commit tag payload [r]
    let waits : Prop := s.compaction.victim ≠ none ∧ s.erasedCount < 2
    (waits → exec (.commit tag payload) s = .next (began .waiting s.array.executorRequest)) ∧
    (¬waits → room → space → exec (.commit tag payload) s
      = .next (began (if ops = [] then .marking else .programming) (some .program))) ∧
    (¬waits → ¬room → (refused 0x31).demands (exec (.commit tag payload) s)) ∧
    (¬waits → room → ¬space → (refused 0x30).demands (exec (.commit tag payload) s))

/-- INCREMENT: its checks in order, and then the wait, the admission or the refusal of a commit, with a need of 2 cells
for a fold and 1 for a bump. -/
def Obligations.IncrementChecksAndAdmission : Prop :=
  ∀ (tag : Byte) (payload : List Byte) (s : State),
    payloadValid .increment payload → s.executesNow .increment tag payload →
    let ident := beNat (payload.take 2)
    let outcome := exec (.increment tag payload) s
    let answered (reply : List Byte) : Prop := outcome = .next (s.replied .increment tag payload reply)
    (s.store = .readOnly → answered [0x06]) ∧
    (s.store = .ready → s.supply.state = .cautionLong → answered [0x33]) ∧
    (s.store = .ready → s.supply.state ≠ .cautionLong →
      (s.entryOf ident = none → answered [0x10]) ∧
      ∀ e, s.entryOf ident = some e →
        (e.body = .tombstone → answered [0x10]) ∧
        (∀ length, e.body = .blob length → answered [0x11]) ∧
        ∀ value bumps, e.body = .tally value bumps →
          (value = 4294967295 → answered ([0x50] ++ beBytes 4 value ++ beBytes 4 e.gen)) ∧
          (value ≠ 4294967295 → 32 ≤ bumps.length → 4294967294 ≤ e.gen →
            answered ([0x51] ++ beBytes 4 value ++ beBytes 4 e.gen)) ∧
          (value ≠ 4294967295 → bumps.length < 32 ∨ e.gen < 4294967294 →
            let need := if 32 ≤ bumps.length then 2 else 1
            let waits : Prop := s.compaction.victim ≠ none ∧ s.erasedCount < 2
            let space : Prop := s.opens need + 2 ≤ s.erasedCount
            let began (waiting : Bool) (ask : Option RequestOp) : State := { s with
              executor := { s.executor with
                executing := some { kind := .increment, tag, payload }
                increment := some
                  { ident, delta := beNat (payload.drop 2), need, waiting, waitOver := false, composed := none,
                    failures := 0, run := none } }
              array := { s.array with executorRequest := ask } }
            (waits → outcome = .next (began true s.array.executorRequest)) ∧
            (¬waits → space → outcome = .next (began false (some .program))) ∧
            (¬waits → ¬space → State.demands (State.replied { s with
              executor := { s.executor with increment := none }
              array := { s.array with executorRequest := none } } .increment tag payload [0x30]) outcome)))

/-- The wait of a commit or of an increment for a victim has ended: with the store READY admission follows and the first
program is requested, or the request is answered DIRECTORY_FULL or STORE_FULL and the automatic demand set; with the store
READ_ONLY the request is answered READ_ONLY; and the transaction of a commit that is refused returns to OPEN. That the end
of the wait is a command of its own, which does nothing before the wait is over, is the model's choice (log entries 3 and
4). -/
def Obligations.AdmissionAfterTheWait : Prop :=
  ∀ (r : Request) (s : State), s.restarting = none → s.executor.executing = some r →
    (∀ c, s.executor.commit = some c → c.stage = .waiting → s.txn.state = .committing →
      let room : Prop :=
        (s.txn.staging.filter (fun op => (s.entryOf (opIdent op)).isNone)).length ≤ 512 - s.directory.length
      let space : Prop := s.opens (cellsNeeded s.txn.staging) + 2 ≤ s.erasedCount
      let refused (result : Byte) : State := State.answered { s with
        txn := { s.txn with state := .opened, idleRunning := true }
        executor := { s.executor with commit := none }
        array := { s.array with executorRequest := none } } r [result]
      (c.waitOver = false → exec .commitWaitEnd s = .next s) ∧
      (c.waitOver = true → s.store = .ready → room → space → exec .commitWaitEnd s = .next { s with
          executor := { s.executor with
            commit := some { c with stage := if s.txn.staging = [] then .marking else .programming } }
          array := { s.array with executorRequest := some .program } }) ∧
      (c.waitOver = true → s.finishes r →
        (s.store = .readOnly → exec .commitWaitEnd s = .next (refused 0x06)) ∧
        (s.store = .ready → ¬room → (refused 0x31).demands (exec .commitWaitEnd s)) ∧
        (s.store = .ready → room → ¬space → (refused 0x30).demands (exec .commitWaitEnd s)))) ∧
    ∀ i, s.executor.increment = some i → i.waiting = true → i.run = none →
      let refused (result : Byte) : State := State.answered { s with
        executor := { s.executor with increment := none }
        array := { s.array with executorRequest := none } } r [result]
      (i.waitOver = false → exec .incrementWaitEnd s = .next s) ∧
      (i.waitOver = true → s.store = .ready → s.opens i.need + 2 ≤ s.erasedCount →
        exec .incrementWaitEnd s = .next { s with
          executor := { s.executor with increment := some { i with waiting := false } }
          array := { s.array with executorRequest := some .program } }) ∧
      (i.waitOver = true → s.finishes r →
        (s.store = .readOnly → exec .incrementWaitEnd s = .next (refused 0x06)) ∧
        (s.store = .ready → s.erasedCount < s.opens i.need + 2 → (refused 0x30).demands (exec .incrementWaitEnd s)))

/-- COMPACT: its checks in order; the host demand grows up to 8 and is told in the reply. With a run in progress nothing
else happens. From IDLE a run begins in that event: with the supply NORMAL it takes a victim and begins its survey, asks
to seal the OPEN page, or ends, and in CAUTION it stays in SELECT. -/
def Obligations.CompactAddsDemand : Prop :=
  ∀ (tag : Byte) (payload : List Byte) (s : State),
    payloadValid .compact payload → s.executesNow .compact tag payload →
    let outcome := exec (.compact tag payload) s
    let demand := min 8 (s.compaction.hostDemand + beNat payload)
    (s.store = .readOnly → outcome = .next (s.replied .compact tag payload [0x06])) ∧
    (s.store = .ready → s.supply.state = .cautionLong → outcome = .next (s.replied .compact tag payload [0x33])) ∧
    (s.store = .ready → s.supply.state ≠ .cautionLong → s.compaction.phase ≠ .idle → outcome = .next (State.replied
      { s with compaction := { s.compaction with hostDemand := demand } } .compact tag payload
      ([0x00] ++ beBytes 1 demand))) ∧
    (s.store = .ready → s.supply.state ≠ .cautionLong → s.compaction = Compaction.idle →
      (s.replied .compact tag payload ([0x00] ++ beBytes 1 (beNat payload))).selects (beNat payload) false 0 0 outcome)

/-- FORMAT: its checks in order; one that proceeds makes the store FORMATTING and requests the program of its mark, or
with every page RETIRED goes straight to the closing mount. A run of the engine proceeds by its phase: one in SELECT ends,
a walk ends at once or, with an operation of the engine in flight, has to stop at its completion (log entry 19), and in
RELEASE or ERASE it goes on. The mark is programmed at the append point where the OPEN page has a free cell, else a page
switch opens one, and where none can be made the lowest page not RETIRED and not yet erased is erased for it, whose open
header carries 4,294,967,295 when no number is left. VERIFY_FAIL is followed by a further attempt, and at the third
failure the OPEN page is sealed and MEDIA raised: with no page erased yet MEDIA_FAULT is answered and the store state is
as before, with no compaction run begun in that event, which is the model's choice (log entry 24), and else the next
fallback page is erased, its failures counted anew (log entry 32), or with none left the format goes on without a mark.
That a fallback page's erase is followed by one more after VERIFY_FAIL, and after a second by RETIRED with MEDIA and the
next fallback page, is the model's reading (log entry 17). Once the mark stands the format erases the other pages that are
not RETIRED in ascending order and the mark's page last; a failed erase is followed by one more, and after it the page is
RETIRED with MEDIA. The last erase empties the directory and the carry list, clears the demands, sets both counters to 1
and begins the closing mount with the pages erased. -/
def Obligations.FormatProceeds : Prop :=
  (∀ (tag : Byte) (s : State), s.executesNow .format tag [] →
    (s.txn.state ≠ .none → exec (.format tag []) s = .next (s.replied .format tag [] [0x21])) ∧
    (s.txn.state = .none → s.supply.state = .cautionLong →
      exec (.format tag []) s = .next (s.replied .format tag [] [0x33])) ∧
    (s.txn.state = .none → s.supply.state ≠ .cautionLong →
      let begun (stage : FormatStage) : State := { s with
        store := .formatting
        executor := { s.executor with
          executing := some { kind := .format, tag, payload := [] }
          format := some
            { previous := s.store, stage, erased := [], fallback := none, mark := none, markErased := false,
              retried := false, failures := 0, run := none } } }
      let begins : State := { begun .marking with array := { s.array with executorRequest := some .program } }
      let carriedOn : Prop := s.compaction.phase = .idle ∨ s.compaction.phase = .release ∨ s.compaction.phase = .erase
      let flying : Prop := ∃ flight, s.array.inFlight = some flight ∧ flight.owner = some .compaction
      ((∃ p, (s.page p).state ≠ .retired) →
        (carriedOn → exec (.format tag []) s = .next begins) ∧
        (s.compaction.phase = .copy → flying →
          exec (.format tag []) s = .next { begins with compaction := { s.compaction with stopping := true } }) ∧
        (∀ v, s.compaction.phase = .copy → ¬flying → s.compaction.victim = some v →
          walkGivenUp (exec (.format tag []) s) v .formatting ∧ ∃ t, exec (.format tag []) s = .next t ∧
            t.array.executorRequest = some .program ∧ t.executor.format = begins.executor.format) ∧
        (s.compaction.phase = .select → ∃ t, exec (.format tag []) s = .next t ∧ t.compaction = Compaction.idle ∧
          t.store = .formatting ∧ t.array.table = s.array.table ∧ t.array.executorRequest = some .program ∧
          t.executor = begins.executor ∧ ∀ flight, t.array.inFlight = some flight → flight.owner ≠ some .compaction)) ∧
      (carriedOn → (∀ p, (s.page p).state = .retired) → exec (.format tag []) s = .next { begun .closing with
        directory := [], carry := []
        compaction := { s.compaction with automaticDemand := false, hostDemand := 0 }
        txn := { s.txn with nextNumber := 1 }
        array := { s.array with nextSequence := some 1, mountRequest := some .read }
        mount := some
          { closing := some [], readIndex := 0, pageWords := [], scans := [], result := none, toErase := [],
            retried := false, eraseCount := 0, erasedCount := 0, retiredCount := 0 } }))) ∧
  ∀ (f : FormatRecord) (r : Request) (s : State), s.restarting = none → s.store = .formatting →
    s.executor.executing = some r → s.executor.commit = none → s.executor.increment = none → s.executor.format = some f →
    let due (t : State) (g : FormatRecord) : List PageIx :=
      (List.finRange 32).filter (fun q => (t.page q).state ≠ .retired ∧ q ∉ g.erased ∧ g.mark ≠ some q)
    let asks (t : State) (g : FormatRecord) (op : RequestOp) : State :=
      { t with executor := { t.executor with format := some g }, array := { t.array with executorRequest := some op } }
    let goesOn (outcome : Host.Outcome State Fault Refusal) (t : State) (g : FormatRecord) : Prop :=
      (∀ p rest, due t g = p :: rest →
        outcome = .next (asks t { g with stage := .erasing p, retried := false, run := none } .erase)) ∧
      (∀ m, due t g = [] → g.mark = some m → g.markErased = false →
        outcome = .next (asks t { g with stage := .erasing m, retried := false, run := none } .erase)) ∧
      (due t g = [] → g.mark = none ∨ g.markErased = true → outcome = .next { t with
        directory := [], carry := []
        executor := { t.executor with format := some { g with stage := .closing, run := none } }
        compaction := { t.compaction with automaticDemand := false, hostDemand := 0 }
        txn := { t.txn with nextNumber := 1 }
        array := { t.array with nextSequence := some 1, mountRequest := some .read }
        mount := some
          { closing := some g.erased, readIndex := 0, pageWords := [], scans := [], result := none, toErase := [],
            retried := false, eraseCount := 0, erasedCount := 0, retiredCount := 0 } })
    let fallsBack (outcome : Host.Outcome State Fault Refusal) (t : State) (g : FormatRecord) : Prop :=
      (∀ q rest, due t g = q :: rest → outcome
        = .next (asks t { g with stage := .fallbackErase q, mark := none, retried := false, run := none } .erase)) ∧
      (due t g = [] → goesOn outcome t g)
    let landed (cells : Memory) : State := { s with array := { s.array with inFlight := none, cells } }
    let gone (p : PageIx) (cells : Memory) (state : PageState) (n : Nat) : State := { s with
      carry := s.carry.filter (fun x => x.page ≠ p)
      array := { s.array with
        inFlight := none, cells
        table := s.array.table.set p { state, eraseCount := n, sequence := none, used := 2, live := 0 }
        appendPoint := if s.openPage = some p then none else s.array.appendPoint
        faulted := s.array.faulted.filter (fun x => x.page ≠ p) } }
    (∀ p a, s.array.inFlight = none → s.chooseRequester = some .executor → s.executor.blobRead = none →
      f.stage = .marking → s.openPage = some p → s.array.appendPoint = some a → a < 128 → exec .arbiterGrant s = .next { s with
        executor := { s.executor with format := some { f with
          run := some { page := p, first := a, words := entryWords .formatMark [], done := 0 } } }
        array := { s.array with
          executorRequest := none, appendPoint := some (a + 1)
          inFlight := some
            { owner := some .executor, op := .program p a ((entryWords .formatMark []).getD 0 blankCell) } } }) ∧
    (s.array.inFlight = none → s.chooseRequester = some .executor → s.executor.blobRead = none → f.stage = .marking →
      s.openPage = none ∨ s.freeCells = 0 →
      let granted : State := { s with array := { s.array with executorRequest := none } }
      (∀ u, f.fallback = none → granted.pageSwitch .executor = some u → exec .arbiterGrant s = .next u) ∧
      (∀ p rest, f.fallback = none → f.mark = none → granted.pageSwitch .executor = none → due s f = p :: rest →
        exec .arbiterGrant s
          = .next (asks granted { f with stage := .fallbackErase p, retried := false, run := none } .erase)) ∧
      (∀ p, f.fallback = some p → ∃ t, exec .arbiterGrant s = .next t ∧ t.array.inFlight = some
        { owner := some .executor, op := .openHeader p (openHeader (s.array.nextSequence.getD 4294967295)) } ∧
        (t.page p).state = .opened ∧ t.array.appendPoint = some 2 ∧
        t.executor.format.map FormatRecord.fallback = some none)) ∧
    (∀ p, s.array.inFlight = none → s.chooseRequester = some .executor → s.executor.blobRead = none →
      f.stage = .erasing p ∨ f.stage = .fallbackErase p → exec .arbiterGrant s = .next { s with array := { s.array with
        executorRequest := none
        inFlight := some { owner := some .executor, op := .erase p (min ((s.page p).eraseCount + 1) 4294967295) } } }) ∧
    (∀ (p : PageIx) (count : Nat), s.array.inFlight = some { owner := some .executor, op := .erase p count } →
      f.stage = .fallbackErase p → ∃ t, exec (.eraseComplete .ok) s = .next t ∧
        t.page p = { state := .erased, eraseCount := count, sequence := none, used := 2, live := 0 } ∧
        t.array.executorRequest = some .program ∧ t.executor.format = some { f with
          stage := .marking, fallback := some p, retried := false, erased := f.erased.filter (fun q => q ≠ p) ++ [p]
          markErased := f.markErased || decide (f.mark = some p) }) ∧
    (∀ (run : Run) (w : CellWord),
      s.array.inFlight = some { owner := some .executor, op := .program run.page (run.first + run.done) w } →
      f.run = some run → run.words.length = run.done + 1 →
      let wrote (content : CellContent) : State := { s with array := { s.array with
        inFlight := none
        cells := s.array.cells.write (cellAddress run.page (run.first + run.done)) content
        table := s.array.table.set run.page
          { s.page run.page with used := max (s.page run.page).used (run.first + run.done + 1) } } }
      let faulted : State := { wrote .indeterminate with array := { (wrote .indeterminate).array with
        faulted := s.array.faulted ++ [{ page := run.page, first := run.first, count := run.words.length }] } }
      goesOn (exec (.programComplete .ok) s) (wrote (.word w)) { f with run := none, mark := some run.page } ∧
      (f.failures + 1 < 3 → exec (.programComplete .verifyFail) s
        = .next (asks faulted { f with run := none, failures := f.failures + 1 } .program)) ∧
      (∀ p, f.failures = 2 → s.openPage = some p →
        let exhausted : State := State.raise { faulted with array := { faulted.array with
          appendPoint := none, table := faulted.array.table.set p { faulted.page p with state := .sealed } } }
            (.media run.page .programRetriesExhausted)
        let ended : State := { exhausted with store := f.previous, executor := { s.executor with format := none } }
        (f.erased = [] → ended.finishes r → exec (.programComplete .verifyFail) s = .next (ended.answered r [0x32])) ∧
        (f.erased ≠ [] →
          fallsBack (exec (.programComplete .verifyFail) s) exhausted { f with run := none, failures := 0 }))) ∧
    (∀ (p : PageIx) (count : Nat), s.array.inFlight = some { owner := some .executor, op := .erase p count } →
      let markErased := f.markErased || decide (f.mark = some p)
      let retired : State :=
        (gone p (s.array.cells.spoilPage p) .retired (s.page p).eraseCount).raise (.media p .pageRetired)
      let lost : FormatRecord := { f with retried := false, erased := f.erased.filter (fun q => q ≠ p), markErased }
      (f.stage = .erasing p → goesOn (exec (.eraseComplete .ok) s)
        (gone p ((s.array.cells.clearPage p).write (cellAddress p 0) (.word (wearHeader count))) .erased count)
        { f with retried := false, erased := f.erased.filter (fun q => q ≠ p) ++ [p], markErased }) ∧
      (f.stage = .erasing p ∨ f.stage = .fallbackErase p → f.retried = false → exec (.eraseComplete .verifyFail) s
        = .next (asks (landed (s.array.cells.spoilPage p)) { f with retried := true } .erase)) ∧
      (f.stage = .erasing p → f.retried = true → goesOn (exec (.eraseComplete .verifyFail) s) retired lost) ∧
      (f.stage = .fallbackErase p → f.retried = true → fallsBack (exec (.eraseComplete .verifyFail) s) retired lost))

/-! ### Notices -/

/-- A notice is raised: it takes the next number, a full queue discards its oldest, whose count the new notice's lost
count carries on, and its frame joins the transmit queue, or waits at the end of the outgoing list with a turn of its own
among the waiting producers (log entry 22). The frame of the notice discarded, if it waits still, leaves the outgoing list
unsent, with its turn; the frames and turns of the notices that stay keep their places. While RESET_N is low, and in the
hold of a cold restart, the queue is empty: a notice raised then takes its number and joins nothing, which is the model's
choice (log entry 36). ALERT_N is low exactly while a notice is queued. -/
def Obligations.NoticeIsRaised : Prop :=
  (∀ (content : NoticeContent) (s : State), s.notices.nextNumber ≤ 255 →
    s.supply.resetNHigh = true → (∀ r, s.restarting = some r → r.cold = false) →
    let number := s.notices.nextNumber
    let unit (queue : List Notice) (lost : Nat) (outgoing : List Frame) : NoticeUnit := { s.notices with
      queue := queue ++ [{ number, lost, content }]
      nextNumber := if number = 255 then 1 else number + 1
      outgoing }
    let frame (lost : Nat) : Frame :=
      { kind := noticeCode content, tag := BitVec.ofNat 8 number, payload := beBytes 1 lost ++ noticeBytes content }
    (s.notices.queue.length < 8 → s.notices.outgoing = [] → s.link.transmit.length < 6 → s.link.waiters = [] →
      s.raise content = { s with
        notices := unit s.notices.queue 0 []
        link := { s.link with transmit := s.link.transmit ++ [frame 0] } }) ∧
    (∀ oldest rest, s.notices.queue = oldest :: rest → rest.length = 7 → s.notices.outgoing = [] →
      s.link.transmit.length < 6 → s.link.waiters = [] → s.raise content = { s with
        notices := unit rest (min (oldest.lost + 1) 255) []
        link := { s.link with transmit := s.link.transmit ++ [frame (min (oldest.lost + 1) 255)] } }) ∧
    (s.notices.queue.length < 8 → 6 ≤ s.link.transmit.length ∨ s.link.waiters ≠ [] →
      (∀ f ∈ s.notices.outgoing, ∃ n ∈ s.notices.queue, BitVec.ofNat 8 n.number = f.tag) →
      s.link.waiters.count .noticeUnit = s.notices.outgoing.length → s.raise content = { s with
        notices := unit s.notices.queue 0 (s.notices.outgoing ++ [frame 0])
        link := { s.link with waiters := s.link.waiters ++ [.noticeUnit] } }) ∧
    (∀ oldest rest, s.notices.queue = oldest :: rest → rest.length = 7 →
      6 ≤ s.link.transmit.length ∨ s.link.waiters ≠ [] →
      (∀ f ∈ s.notices.outgoing, ∃ n ∈ rest, BitVec.ofNat 8 n.number = f.tag) →
      s.link.waiters.count .noticeUnit = s.notices.outgoing.length → s.raise content = { s with
        notices := unit rest (min (oldest.lost + 1) 255) (s.notices.outgoing ++ [frame (min (oldest.lost + 1) 255)])
        link := { s.link with waiters := s.link.waiters ++ [.noticeUnit] } }) ∧
    (∀ oldest rest first more before others, s.notices.queue = oldest :: rest → rest.length = 7 →
      s.notices.outgoing = first :: more → s.link.waiters = before ++ .noticeUnit :: others → .noticeUnit ∉ before →
      6 ≤ s.link.transmit.length ∨ before ≠ [] ∨ others ≠ [] →
      (∀ n ∈ rest, BitVec.ofNat 8 n.number ≠ first.tag) → (∀ f ∈ more, ∃ n ∈ rest, BitVec.ofNat 8 n.number = f.tag) →
      others.count .noticeUnit = more.length → s.raise content = { s with
        notices := unit rest (min (oldest.lost + 1) 255) (more ++ [frame (min (oldest.lost + 1) 255)])
        link := { s.link with waiters := before ++ others ++ [.noticeUnit] } })) ∧
  (∀ (content : NoticeContent) (s : State), s.notices.nextNumber ≤ 255 →
    s.supply.resetNHigh = false ∨ (∃ r, s.restarting = some r ∧ r.cold = true) → s.raise content = { s with notices :=
      { s.notices with nextNumber := if s.notices.nextNumber = 255 then 1 else s.notices.nextNumber + 1 } }) ∧
  ∀ s : State, s.alertNLow = true ↔ s.notices.queue ≠ []

/-! ### The arbiter -/

/-- The requester the arbiter grants: the mount unit alone while it is active; of the executor and the engine the one that
is eligible, and of both the executor while 2 or more pages are ERASED and the engine below. During caution programs and
erases are not eligible and reads are. A program of one tally waits while the other requester holds the tally: the engine
from the grant of the first cell of its fold or tally copy on, the increment from the grant of its entry on. A fold waits
while a commit that stages its tally has had a program granted (that it waits here is the model's choice, log entry 28). A
FORMAT waits while a run of the engine goes on. Else a request is eligible. With no eligible request, or with the array in
use, no grant is made (log entry 4). -/
def Obligations.ArbiterChoosesByErasedCount : Prop :=
  ∀ s : State,
    let normal : Prop := s.supply.state = .normal
    let ofTally (ident : Nat) : Prop := ∃ k rec, s.compaction.walk = some k ∧ s.compaction.survey[k]? = some rec ∧
      ((∃ flags txn gen value, rec.entry = .tallyBase flags ident txn gen value) ∨
        ∃ ordinal delta gen, rec.entry = .bump ordinal ident delta gen)
    let ofRecord (ident : Nat) : Prop := ∃ k rec, s.compaction.walk = some k ∧ s.compaction.survey[k]? = some rec ∧
      entryIdent rec.entry = some ident
    let folding : Prop := ∃ f, s.compaction.action = .fold f
    let copying : Prop := ∃ words granted, s.compaction.action = .copy words granted
    let engineHolds (ident : Nat) : Prop := ofTally ident ∧
      ((∃ f, s.compaction.action = .fold (some f)) ∨ ∃ words, s.compaction.action = .copy words true)
    let incrementHolds (ident : Nat) : Prop := ∃ i, s.executor.increment = some i ∧ i.ident = ident ∧ i.composed ≠ none
    let committing (ident : Nat) : Prop := s.txn.state = .committing ∧
      (∃ c, s.executor.commit = some c ∧ c.granted = true) ∧ ∃ op ∈ s.txn.staging, opIdent op = ident
    (s.mount ≠ none → s.chooseRequester = if s.mountEligible then some .mount else none) ∧
    (s.mount = none →
      (s.executorEligible = false → s.compactionEligible = false → s.chooseRequester = none) ∧
      (s.executorEligible = true → s.compactionEligible = false → s.chooseRequester = some .executor) ∧
      (s.executorEligible = false → s.compactionEligible = true → s.chooseRequester = some .compaction) ∧
      (s.executorEligible = true → s.compactionEligible = true →
        s.chooseRequester = if s.erasedCount < 2 then some .compaction else some .executor)) ∧
    (∀ op, op = .program ∨ op = .erase → ¬normal →
      (s.array.executorRequest = some op → s.executorEligible = false) ∧
      (s.array.compactionRequest = some op → s.compactionEligible = false) ∧
      (s.array.mountRequest = some op → s.mountEligible = false)) ∧
    (s.array.executorRequest = some .program → ∀ i, s.executor.increment = some i → engineHolds i.ident →
      s.executorEligible = false) ∧
    (s.array.compactionRequest = some .program → ∀ ident, ofTally ident → folding ∨ copying → incrementHolds ident →
      s.compactionEligible = false) ∧
    (s.array.compactionRequest = some .program → ∀ ident, ofRecord ident → folding → committing ident →
      s.compactionEligible = false) ∧
    (s.executor.format ≠ none → s.compaction.phase ≠ .idle → s.executorEligible = false) ∧
    (∀ op, s.array.executorRequest = some op → op = .read ∨ normal → s.executor.format = none ∨ s.compaction.phase = .idle →
      (op = .program → ∀ i, s.executor.increment = some i → ¬engineHolds i.ident) → s.executorEligible = true) ∧
    (∀ op, s.array.compactionRequest = some op → op = .read ∨ normal →
      (op = .program → ∀ ident, (ofTally ident → folding ∨ copying → ¬incrementHolds ident) ∧
        (ofRecord ident → folding → ¬committing ident)) → s.compactionEligible = true) ∧
    (∀ op, s.array.mountRequest = some op → op = .read ∨ normal → s.mountEligible = true) ∧
    (s.array.executorRequest = none → s.executorEligible = false) ∧
    (s.array.compactionRequest = none → s.compactionEligible = false) ∧
    (s.array.mountRequest = none → s.mountEligible = false) ∧
    (s.chooseRequester = none ∨ s.array.inFlight ≠ none ∨ s.restarting ≠ none → exec .arbiterGrant s = .next s)

/-- A grant takes the request from the waiting set and starts the operation: a mount's read of 16 cells and its erases, the
read of a BLOB where the directory then has it, the next cell of a run of a commit, of an INCREMENT or of the engine, whose
fold has not lapsed (log entry 28), and the erase of the victim with its count raised by 1. -/
def Obligations.GrantStartsTheOperation : Prop :=
  ∀ s : State, s.restarting = none → s.array.inFlight = none →
    (∀ m, s.mount = some m → s.nothingToTake → m.toErase = [] → s.array.mountRequest = some .read →
      exec .arbiterGrant s = .next { s with array := { s.array with
        mountRequest := none
        inFlight := some { owner := some .mount
                           op := .read (Fin.ofNat 32 (m.readIndex / 8)) (m.readIndex % 8 * 16) 16 } } }) ∧
    (∀ m p rest, s.mount = some m → s.nothingToTake → m.toErase = p :: rest → s.array.mountRequest = some .erase →
      s.supply.state = .normal → exec .arbiterGrant s = .next { s with array := { s.array with
        mountRequest := none, inFlight := some { owner := some .mount, op := .erase p m.eraseCount } } }) ∧
    (∀ ident e, s.chooseRequester = some .executor → s.executor.executing ≠ none → s.executor.blobRead = some ident →
      s.entryOf ident = some e → exec .arbiterGrant s = .next { s with array := { s.array with
        executorRequest := none
        inFlight := some { owner := some .executor, op := .read e.loc.page e.loc.cell (currentCells e) } } }) ∧
    (∀ run : Run,
      let next : ArrayOp := .program run.page (run.first + run.done) (run.words.getD run.done blankCell)
      (s.chooseRequester = some .executor → s.executor.executing ≠ none → s.executor.blobRead = none →
        (∃ c, s.executor.commit = some c ∧ c.run = some run) ∨
          (s.executor.commit = none ∧ ∃ i, s.executor.increment = some i ∧ i.run = some run) →
        exec .arbiterGrant s = .next { s with array := { s.array with
          executorRequest := none, inFlight := some { owner := some .executor, op := next } } }) ∧
      (s.chooseRequester = some .compaction → s.nothingToTake → s.compaction.run = some run →
        (∀ f, s.compaction.action = .fold (some f) → ∃ k rec ident e value bumps, s.compaction.walk = some k ∧
          s.compaction.survey[k]? = some rec ∧ entryIdent rec.entry = some ident ∧ s.entryOf ident = some e ∧
          e.body = .tally value bumps ∧ e.gen + 1 = f.gen) →
        exec .arbiterGrant s = .next { s with array := { s.array with
          compactionRequest := none, inFlight := some { owner := some .compaction, op := next } } })) ∧
    (∀ v second, s.chooseRequester = some .compaction → s.nothingToTake → s.compaction.run = none →
      s.compaction.action = .erase second → s.compaction.victim = some v →
      exec .arbiterGrant s = .next { s with array := { s.array with
        compactionRequest := none
        inFlight := some { owner := some .compaction
                           op := .erase v (min ((s.page v).eraseCount + 1) 4294967295) } } })

/-- The first cell of a commit's entry or of its marker is granted, and the run fits the commit page: the entry is
composed from the directory as it stands if this is its first attempt, and else stands as composed, in a retry or a
relocation; its run is reserved at the append point, and its first cell programmed. The cells still to be placed are those
of the entries from the position on, of the entries with a final location that are to be relocated, and of the marker. -/
def Obligations.CommitPlacesAtTheAppendPoint : Prop :=
  (∀ (c : CommitRecord) (ops : List StagedOp),
    let cells (k : Nat) : Nat := match ops[k]? with
      | some (.write _ data) => 1 + (data.length + 15) / 16
      | some (.delete _) => 1
      | some (.createTally _ _) => 2
      | none => 0
    stillToPlace c ops
      = (((List.range ops.length).filter (fun k => c.position ≤ k ∨ k ∈ c.relocate)).map cells).sum + 1) ∧
  ∀ (c : CommitRecord) (p : PageIx) (a number : Nat) (s : State), s.restarting = none → s.array.inFlight = none →
    s.chooseRequester = some .executor → s.executor.executing ≠ none → s.executor.blobRead = none →
    s.executor.commit = some c → c.run = none → s.txn.number = some number →
    s.openPage = some p → s.array.appendPoint = some a → (∀ q, c.commitPage = some q → q = p) →
    stillToPlace c s.txn.staging ≤ 128 - a →
    let placed (words : List CellWord) (d : CommitRecord) : State := { s with
      executor := { s.executor with commit := some { d with
        commitPage := some p, granted := true, programmed := true,
        run := some { page := p, first := a, words, done := 0 } } }
      array := { s.array with
        executorRequest := none
        appendPoint := some (a + words.length)
        inFlight := some { owner := some .executor, op := .program p a (words.getD 0 blankCell) } } }
    (∀ item op, c.relocate = [] → c.position < c.items.length → c.items[c.position]? = some item →
      s.txn.staging[c.position]? = some op →
      (item.composed = none →
        let gen := match s.entryOf (opIdent op) with | some e => e.gen + 1 | none => 1
        let words := match op with
          | .write ident data => entryWords (.blob 0 ident number gen data.length) data
          | .delete ident => entryWords (.tombstone 0 ident number gen) []
          | .createTally ident initial => entryWords (.tallyBase 0 ident number gen initial) []
        exec .arbiterGrant s = .next (placed words
          { c with items := c.items.set c.position { item with composed := some { gen, words } } })) ∧
      ∀ made, item.composed = some made → exec .arbiterGrant s = .next (placed made.words c)) ∧
    (∀ i more item op made, c.relocate = i :: more → c.items[i]? = some item → s.txn.staging[i]? = some op →
      item.composed = some made → exec .arbiterGrant s = .next (placed made.words c)) ∧
    (c.relocate = [] → c.position = c.items.length → exec .arbiterGrant s = .next (placed
      (entryWords (.marker number s.txn.staging.length) []) { c with markerGranted := true }))

/-- The first cell of an attempt of a commit is granted and its run does not fit the commit page, or the commit page is no
longer the OPEN page: a page switch makes the new page the commit page, and every entry that has a final location is to be
relocated, in staging order. Where no switch can be made the commit is refused STORE_FULL with its transaction back in
OPEN while none of its cells has been programmed, and else its transaction ends with STORE_FULL; the automatic demand is set,
which in READY begins a run of an engine that is IDLE. That the grant of the open header makes the commit one with a program
granted is the model's reading (log entry 10). (The cells still to be placed are spelled out in
CommitPlacesAtTheAppendPoint.) -/
def Obligations.CommitOpensAPage : Prop :=
  ∀ (c : CommitRecord) (s : State), s.restarting = none → s.array.inFlight = none →
    s.chooseRequester = some .executor → s.executor.executing ≠ none → s.executor.blobRead = none →
    s.executor.commit = some c → c.run = none →
    (s.openPage = none ∨ (∃ p, s.openPage = some p ∧
      ((∃ q, c.commitPage = some q ∧ q ≠ p) ∨ s.freeCells < stillToPlace c s.txn.staging))) →
    let granted : State := { s with array := { s.array with executorRequest := none } }
    (∀ u, granted.pageSwitch .executor = some u → exec .arbiterGrant s = .next { u with
      executor := { u.executor with commit := some { c with
        commitPage := u.openPage, granted := true
        relocate := (List.range c.items.length).filter (fun i => (c.items[i]?.bind CommitItem.final).isSome) } } }) ∧
    (∀ r, granted.pageSwitch .executor = none → s.finishes r →
      let ended (txn : Txn) : State := State.answered { granted with
        txn
        executor := { s.executor with commit := none } } r [0x30]
      (c.programmed = false →
        (ended { s.txn with state := .opened, idleRunning := true }).demands (exec .arbiterGrant s)) ∧
      (c.programmed = true →
        (ended { s.txn with state := .none, number := none, idleRunning := false, staging := [] }).demands
          (exec .arbiterGrant s)))

/-- A cell program of a commit completes short of its end. OK inside a run: the next cell is requested. OK at the end of
an entry: its final location is the run's first cell, and the next staged entry or the marker follows; in a relocation the
location left behind is kept as a copy, but where its page has been erased since, which is the model's reading (log entry
12). VERIFY_FAIL: the run joins its page's faulted runs with all its cells used, and the same entry or marker is attempted
again, at its third failure the OPEN page is sealed, MEDIA raised with the failed page and MEDIA_FAULT answered, the
transaction over. After an ABANDON the commit stops at this completion with ABANDONED. That an entry's failures are
counted over its placements and relocations together is the model's reading (log entry 9). -/
def Obligations.CommitAttemptsComplete : Prop :=
  ∀ (c : CommitRecord) (run : Run) (r : Request) (w : CellWord) (s : State),
    s.array.inFlight = some { owner := some .executor, op := .program run.page (run.first + run.done) w } →
    s.restarting = none → s.executor.executing = some r → s.executor.commit = some c → c.run = some run →
    let cell := cellAddress run.page (run.first + run.done)
    let used (limit : Nat) : Vector PageRec 32 :=
      s.array.table.set run.page { s.page run.page with used := max (s.page run.page).used limit }
    let wrote (content : CellContent) (table : Vector PageRec 32) : ArrayState := { s.array with
      inFlight := none, executorRequest := some .program, cells := s.array.cells.write cell content, table }
    let goesOn (a : ArrayState) (d : CommitRecord) : State :=
      { s with array := a, executor := { s.executor with commit := some d } }
    let good : ArrayState := wrote (.word w) (used (run.first + run.done + 1))
    let faulted : ArrayState :=
      { wrote .indeterminate (used (max (run.first + run.done + 1) (run.first + run.words.length))) with
        faulted := s.array.faulted ++ [{ page := run.page, first := run.first, count := run.words.length }] }
    let loc : Loc := { page := run.page, cell := run.first }
    let last : Prop := run.words.length = run.done + 1
    (s.txn.state = .committing →
      (run.done + 1 < run.words.length → exec (.programComplete .ok) s
        = .next (goesOn good { c with run := some { run with done := run.done + 1 } })) ∧
      (∀ item, last → c.relocate = [] → c.items[c.position]? = some item → exec (.programComplete .ok) s
        = .next (goesOn good { c with
          run := none, position := c.position + 1
          items := c.items.set c.position { item with final := some loc, finalStands := true }
          stage := if c.position + 1 < c.items.length then .programming else .marking })) ∧
      (∀ i more item op old, last → c.relocate = i :: more → c.items[i]? = some item → s.txn.staging[i]? = some op →
        item.final = some old → exec (.programComplete .ok) s = .next (goesOn good { c with
          run := none, relocate := more
          items := c.items.set i { item with final := some loc, finalStands := true }
          copies := c.copies ++ if item.finalStands then [(opIdent op, old)] else [] })) ∧
      (∀ i item, (c.relocate = [] ∧ i = c.position ∨ ∃ more, c.relocate = i :: more) → c.items[i]? = some item →
        item.failures + 1 < 3 → exec (.programComplete .verifyFail) s = .next (goesOn faulted { c with
          run := none, items := c.items.set i { item with failures := item.failures + 1 } })) ∧
      (c.relocate = [] → c.position = c.items.length → c.markerFailures + 1 < 3 → exec (.programComplete .verifyFail) s
        = .next (goesOn faulted { c with run := none, markerFailures := c.markerFailures + 1 })) ∧
      ((c.relocate = [] ∧ c.position = c.items.length ∧ c.markerFailures = 2) ∨ (∃ i item, c.items[i]? = some item ∧
          item.failures = 2 ∧ (c.relocate = [] ∧ i = c.position ∨ ∃ more, c.relocate = i :: more)) →
        let ended : State := State.raise { s with
          array := match s.openPage with
            | none => { faulted with executorRequest := none }
            | some p => { faulted with
              executorRequest := none, appendPoint := none
              table := faulted.table.set p { faulted.table.get p with state := .sealed } }
          txn := { s.txn with state := .none, number := none, idleRunning := false, staging := [] }
          executor := { s.executor with commit := none } } (.media run.page .programRetriesExhausted)
        ended.finishes r → exec (.programComplete .verifyFail) s = .next (ended.answered r [0x32]))) ∧
    (s.txn.state ≠ .committing → s.finishes r →
      let stopped (a : ArrayState) : State :=
        State.answered { s with array := { a with executorRequest := none }
                                executor := { s.executor with commit := none } } r [0x40]
      (last → exec (.programComplete .ok) s = .next (stopped good)) ∧
      (run.done + 1 < run.words.length → exec (.programComplete .ok) s
        = .next (stopped { faulted with cells := good.cells })) ∧
      exec (.programComplete .verifyFail) s = .next (stopped faulted))

/-- A page switch opens the ERASED page with the lowest erase count, of several the one with the lowest index, from the
page table as it stands: the OPEN page is sealed, the new one takes the next sequence number and the append point 2, its
open header goes out. Where 4 or fewer pages stay ERASED the automatic demand is set, and an engine that is IDLE in READY
begins a run. The switch that assigns 4,294,967,295 leaves no next sequence number and makes READY into READ_ONLY, which goes
before the demand (the order is the model's choice, log entry 30). -/
def Obligations.PageSwitchOpensTheLeastWorn : Prop :=
  (∀ (s : State) (p : PageIx), s.leastWorn = some p → (s.page p).state = .erased ∧
      ∀ q, (s.page q).state = .erased →
        (s.page p).eraseCount < (s.page q).eraseCount ∨ ((s.page p).eraseCount = (s.page q).eraseCount ∧ p ≤ q)) ∧
    (∀ s : State, s.leastWorn = none → (∀ q, (s.page q).state ≠ .erased) ∧ ∀ who, s.pageSwitch who = none) ∧
    (∀ s : State, s.array.nextSequence = none → ∀ who, s.pageSwitch who = none) ∧
    ∀ (who : Requester) (s : State) (p : PageIx) (n : Nat),
      s.leastWorn = some p → s.array.nextSequence = some n → n ≤ 4294967295 →
      let sealed := match s.openPage with
        | some q => s.array.table.set q { s.page q with state := .sealed }
        | none => s.array.table
      let t : State := { s with array := { s.array with
        table := sealed.set p
          { state := .opened, eraseCount := (s.page p).eraseCount, sequence := some n, used := 2, live := 0 }
        appendPoint := some 2
        nextSequence := if n < 4294967295 then some (n + 1) else none
        inFlight := some { owner := some who, op := .openHeader p (openHeader n) } } }
      let demanded (u : State) : State :=
        if u.erasedCount ≤ 4 then { u with compaction := { u.compaction with automaticDemand := true } } else u
      (n < 4294967295 →
        (4 < t.erasedCount → s.pageSwitch who = some t) ∧
        (t.erasedCount ≤ 4 → ∃ u, s.pageSwitch who = some u ∧ t.demands (.next u))) ∧
      (n = 4294967295 →
        (s.store = .ready → ∃ u, s.pageSwitch who = some u ∧ u.store = .readOnly ∧ u.array.nextSequence = none ∧
          u.array.inFlight.map Flight.op = some (.openHeader p (openHeader n))) ∧
        (s.store = .ready → s.compaction.phase = .idle ∨ s.compaction.phase = .release ∨ s.compaction.phase = .erase →
          s.pageSwitch who = some (demanded { t with store := .readOnly })))

/-! ### Completions -/

/-- A cell program completes: its cell holds the word, or indeterminate content after VERIFY_FAIL, and no other cell
changes; while the device is restarting nothing but the cell and its page's used cells takes it. The open header of a page
switch completes: the page is ready, or after VERIFY_FAIL it is set aside, SEALED with its sequence number, used cells 128
and live cells 0, and no page is OPEN. The requester of the switch goes on: a commit, an INCREMENT, a FORMAT, and a copy,
a fold or the RELEASE of the engine request their next program; a commit whose transaction an ABANDON has ended is
answered ABANDONED; an engine that has sealed the OPEN page chooses again with the supply NORMAL (log entry 18), and one
whose walk has to stop ends it (log entry 19). A page erase completes: the page is blank but for its wear header, or
indeterminate in every cell after VERIFY_FAIL, and no other page's cells change. -/
def Obligations.CompletionsReachTheCells : Prop :=
  (∀ (outcome : ArrayOutcome) (owner : Option Requester) (p : PageIx) (cell : Nat) (w : CellWord) (s : State),
    s.array.inFlight = some { owner, op := .program p cell w } → s.array.cells.wf = true →
    let content : CellContent := match outcome with | .ok => .word w | .verifyFail => .indeterminate
    (∃ t, exec (.programComplete outcome) s = .next t ∧ t.array.cells.read (cellAddress p cell) = content ∧
      ∀ a, a ≠ cellAddress p cell → t.array.cells.read a = s.array.cells.read a) ∧
    (s.restarting ≠ none → exec (.programComplete outcome) s = .next { s with array := { s.array with
      inFlight := none
      cells := s.array.cells.write (cellAddress p cell) content
      table := s.array.table.set p { s.page p with used := max (s.page p).used (cell + 1) } } })) ∧
  (∀ (outcome : ArrayOutcome) (who : Requester) (p : PageIx) (w : CellWord) (s : State), s.restarting = none →
    s.array.inFlight = some { owner := some who, op := .openHeader p w } →
    let landed : ArrayState := match outcome with
      | .ok => { s.array with
        inFlight := none
        cells := s.array.cells.write (cellAddress p 1) (.word w)
        table := s.array.table.set p { s.page p with used := max (s.page p).used 2 } }
      | .verifyFail => { s.array with
        inFlight := none
        cells := s.array.cells.write (cellAddress p 1) .indeterminate
        table := s.array.table.set p { s.page p with state := .sealed, used := 128, live := 0 }
        appendPoint := none }
    let t : State := { s with array := landed }
    let completed := exec (.programComplete outcome) s
    (who = .executor →
      (s.executor.executing ≠ none → (s.executor.commit ≠ none ∧ s.txn.state = .committing) ∨
          (s.executor.commit = none ∧ (s.executor.increment ≠ none ∨ s.executor.format ≠ none)) →
        completed = .next { s with array := { landed with executorRequest := some .program } }) ∧
      ∀ r, s.executor.commit ≠ none → s.txn.state ≠ .committing → s.finishes r →
        completed = .next (State.answered { s with
          array := { landed with executorRequest := none }, executor := { s.executor with commit := none } } r [0x40])) ∧
    (who = .compaction → s.nothingToTake →
      (s.compaction.stopping = false →
        ((∃ words granted, s.compaction.action = .copy words granted) ∨ (∃ fold, s.compaction.action = .fold fold) ∨
            s.compaction.action = .release →
          completed = .next { s with array := { landed with compactionRequest := some .program } }) ∧
        (s.compaction.action = .seal → s.supply.state ≠ .normal →
          completed = .next { t with compaction := { s.compaction with action := .none } }) ∧
        ∀ host automatic victims reclaimed,
          s.compaction = { Compaction.selecting host automatic victims reclaimed with action := .seal } →
          s.supply.state = .normal → t.chooses (Compaction.selecting host automatic victims reclaimed) completed) ∧
      ∀ v, s.compaction.stopping = true → s.compaction.victim = some v → v ≠ p → s.compaction.run = none →
        ∃ u, completed = .next u ∧ u.page v = { s.page v with state := .sealed } ∧ u.page p = t.page p ∧
          u.array.cells = landed.cells ∧ u.compaction.phase = .idle ∧ u.compaction.victim = none ∧
          u.compaction.hostDemand = 0 ∧ u.compaction.automaticDemand = false ∧ u.array.compactionRequest = none)) ∧
  ∀ (outcome : ArrayOutcome) (owner : Option Requester) (p : PageIx) (count : Nat) (s : State),
    s.array.inFlight = some { owner, op := .erase p count } → s.array.cells.wf = true →
    ∃ t, exec (.eraseComplete outcome) s = .next t ∧
      (outcome = .ok → t.array.cells.read (cellAddress p 0) = .word (wearHeader count) ∧
        ∀ cell, 1 ≤ cell → cell ≤ 127 → t.array.cells.read (cellAddress p cell) = .word blankCell) ∧
      (outcome = .verifyFail → ∀ cell, cell ≤ 127 → t.array.cells.read (cellAddress p cell) = .indeterminate) ∧
      (∀ a, a / 128 ≠ p.val → t.array.cells.read a = s.array.cells.read a) ∧
      (s.restarting ≠ none → t = { s with array := { s.array with inFlight := none, cells := t.array.cells } })

/-- The marker of a commit completes OK: every staged operation stands in the directory with its entry's generation and
location, its stale count raised by the entry it supersedes, that entry's bumps and the relocated copies that stand, no
other identifier changes, and the COMMIT is answered OK with the number and the count; the transaction is over. Pages gain
the cells of the new entries as live and lose those of the superseded ones; the carry list gains the pages of relocated
copies, but for the commit page. Of the entries superseded, and of the copies, those that lie in the engine's victim where
the walk has passed join the victim counts of their identifiers (what counts as passed is log entry 25). That copies on
pages erased since do not count is the model's reading (log entry 12). -/
def Obligations.CommitIsAppliedAtItsMarker : Prop :=
  ∀ (c : CommitRecord) (run : Run) (r : Request) (number : Nat) (w : CellWord) (s : State),
    s.array.inFlight = some { owner := some .executor, op := .program run.page (run.first + run.done) w } →
    s.finishes r → s.txn.state = .committing → s.txn.number = some number → s.executor.commit = some c →
    c.run = some run → run.words.length = run.done + 1 → c.relocate = [] → c.position = c.items.length →
    c.items.length = s.txn.staging.length → directorySorted s.directory → (s.txn.staging.map opIdent).Nodup →
    (∀ item ∈ c.items, item.final ≠ none ∧ item.composed ≠ none) →
    let reply : Frame :=
      { kind := requestCode r.kind + 0x80, tag := r.tag
        payload := [0x00] ++ beBytes 4 number ++ beBytes 1 s.txn.staging.length }
    let stands (p : PageIx) : Prop := (s.page p).state ≠ .erased ∧ (s.page p).state ≠ .retired
    let copies (ident : Nat) : Nat := (c.copies.filter (fun x => x.1 = ident ∧ stands x.2.page)).length
    let superseded (ident : Nat) : List Loc := (match s.entryOf ident with
      | some e => e.loc :: (bumpsOf e).map BumpLoc.loc
      | none => []) ++ (c.copies.filter (fun x => x.1 = ident ∧ stands x.2.page)).map (fun x => x.2)
    let gained (p : PageIx) : Nat := ((s.txn.staging.zip c.items).map (fun x =>
      if x.2.final.any (fun l => l.page = p) then opCells x.1 else 0)).sum
    let lost (p : PageIx) : Nat := (s.txn.staging.map (fun op => match s.entryOf (opIdent op) with
      | none => 0
      | some e => (if e.loc.page = p then currentCells e else 0)
        + ((bumpsOf e).filter (fun b => b.loc.page = p)).length)).sum
    ∃ t, exec (.programComplete .ok) s = .next t ∧
      (t.txn.state = .none ∧ t.txn.number = none ∧ t.txn.staging = [] ∧ t.txn.idleRunning = false) ∧
      t.executor.commit = none ∧ t.executor.executing = none ∧
      t.link.transmit = s.link.transmit ++ [reply] ∧
      (∀ (i : Nat) (op : StagedOp) (item : CommitItem) (loc : Loc) (made : Composed),
        s.txn.staging[i]? = some op → c.items[i]? = some item → item.final = some loc → item.composed = some made →
        ∃ e, t.entryOf (opIdent op) = some e ∧ e.gen = made.gen ∧ e.loc = loc ∧
          (e.stale = match s.entryOf (opIdent op) with
            | some old => old.stale + 1 + (bumpsOf old).length + copies (opIdent op)
            | none => copies (opIdent op)) ∧
          e.body = match op with
            | .write _ data => .blob data.length
            | .delete _ => .tombstone
            | .createTally _ initial => .tally initial []) ∧
      (∀ ident, s.unstaged ident → t.entryOf ident = s.entryOf ident) ∧
      (∀ p, lost p ≤ (s.page p).live → t.page p = { s.page p with
        used := if p = run.page then max (s.page p).used (run.first + run.done + 1) else (s.page p).used
        live := (s.page p).live + gained p - lost p }) ∧
      (∀ pair, pair ∈ t.carry ↔ pair ∈ s.carry ∨ (pair.txn = number ∧ c.commitPage ≠ some pair.page ∧
        stands pair.page ∧ ∃ x ∈ c.copies, x.2.page = pair.page)) ∧
      t.compaction = { s.compaction with victimCounts := t.compaction.victimCounts } ∧
      (∀ op ∈ s.txn.staging, victimCount t.compaction.victimCounts (opIdent op)
        = victimCount s.compaction.victimCounts (opIdent op)
          + ((superseded (opIdent op)).filter (fun l => s.passedInVictim l)).length) ∧
      (∀ ident, s.unstaged ident →
        victimCount t.compaction.victimCounts ident = victimCount s.compaction.victimCounts ident) ∧
      (s.compaction.victim = none → t.compaction = s.compaction)

/-- An INCREMENT's entry. At its grant it is composed from the directory as it stands, a bump with the delta that fits
below the maximum, or at 32 bumps a fold, and its first cell is programmed at the append point. The bump completes OK: the
tally's value and its bump locations change, its page gains a live cell; the fold completes OK: the tally takes the fold's
generation, location and value, its bumps go, its stale count rises by 1 and by their number, live cells move to the fold's
page, and of the base and the bumps superseded those that lie in the engine's victim where the walk has passed join the
tally's victim count (what counts as passed is log entry 25). Each is answered with the new value and the generation,
SATURATED where the sum was capped. -/
def Obligations.IncrementEntryCompletes : Prop :=
  ∀ (i : IncrementRecord) (e : DirEntry) (value : Nat) (bumps : List BumpLoc) (s : State),
    s.restarting = none → s.executor.commit = none → s.executor.increment = some i → s.entryOf i.ident = some e →
    e.body = .tally value bumps →
    (∀ (p : PageIx) (a : Nat),
      let sum := min (value + i.delta) 4294967295
      let saturated := decide (4294967295 < value + i.delta)
      let b : IncrementEntry :=
        if bumps.length < 32 then
          { isFold := false, gen := e.gen, ordinal := bumps.length + 1, value := sum, saturated
            words := entryWords (.bump (bumps.length + 1) e.ident (sum - value) e.gen) [] }
        else
          { isFold := true, gen := e.gen + 1, ordinal := 0, value := sum, saturated
            words := entryWords (.tallyBase 3 e.ident 0 (e.gen + 1) sum) [] }
      s.array.inFlight = none → s.chooseRequester = some .executor → s.executor.executing ≠ none →
      s.executor.blobRead = none → i.run = none → i.composed = none → s.openPage = some p → s.array.appendPoint = some a →
      (if bumps.length < 32 then 1 else 2) ≤ 128 - a → exec .arbiterGrant s = .next { s with
        executor := { s.executor with increment := some { i with
          composed := some b, run := some { page := p, first := a, words := b.words, done := 0 } } }
        array := { s.array with
          executorRequest := none
          appendPoint := some (a + b.words.length)
          inFlight := some { owner := some .executor, op := .program p a (b.words.getD 0 blankCell) } } }) ∧
    ∀ (run : Run) (b : IncrementEntry) (r : Request) (w : CellWord),
      s.array.inFlight = some { owner := some .executor, op := .program run.page (run.first + run.done) w } → s.finishes r →
      i.run = some run → i.composed = some b → run.words.length = run.done + 1 →
      let reply : List Byte := [if b.saturated then 0x50 else 0x00] ++ beBytes 4 b.value ++ beBytes 4 b.gen
      let loc : Loc := { page := run.page, cell := run.first }
      let written : ArrayState := { s.array with
        inFlight := none
        executorRequest := none
        cells := s.array.cells.write (cellAddress run.page (run.first + run.done)) (.word w) }
      let reached := max (s.page run.page).used (run.first + run.done + 1)
      (b.isFold = false → exec (.programComplete .ok) s = .next (State.answered { s with
        directory := Machine.putEntry s.directory
          { e with body := .tally b.value (bumps ++ [{ ordinal := b.ordinal, loc }]) }
        executor := { s.executor with increment := none }
        array := { written with table := s.array.table.set run.page { s.page run.page with
          used := reached, live := (s.page run.page).live + 1 } } } r reply)) ∧
      (b.isFold = true →
        let lost (p : PageIx) : Nat := (if e.loc.page = p then 2 else 0) + (bumps.filter (fun x => x.loc.page = p)).length
        let passed := ((e.loc :: bumps.map BumpLoc.loc).filter (fun l => s.passedInVictim l)).length
        ∃ table counts, exec (.programComplete .ok) s = .next (State.answered { s with
            directory := Machine.putEntry s.directory
              { e with gen := b.gen, loc, stale := e.stale + 1 + bumps.length, body := .tally b.value [] }
            executor := { s.executor with increment := none }
            compaction := { s.compaction with victimCounts := counts }
            array := { written with table } } r reply) ∧
          (∀ ident, victimCount counts ident
            = victimCount s.compaction.victimCounts ident + if ident = i.ident then passed else 0) ∧
          (s.compaction.victim = none → counts = s.compaction.victimCounts) ∧
          ∀ p : PageIx, lost p ≤ (s.page p).live → table.get p = { s.page p with
            used := if p = run.page then reached else (s.page p).used
            live := (s.page p).live + (if p = run.page then 2 else 0) - lost p })

/-- An INCREMENT's program completes short of its entry's end. The first cell of a fold OK: the second is requested.
VERIFY_FAIL: the run joins its page's faulted runs and the same entry is programmed again; at the third failure the OPEN
page is sealed, MEDIA raised with it and MEDIA_FAULT answered, the directory as it stands (with no page OPEN the page of
the failure is named, log entry 29). An attempt, the first or a later one, that does not fit the OPEN page makes a page
switch, and where none can be made the INCREMENT is answered STORE_FULL and the automatic demand is set, which in READY
begins a run of an engine that is IDLE. -/
def Obligations.IncrementAttemptsComplete : Prop :=
  ∀ (i : IncrementRecord) (r : Request) (s : State),
    s.restarting = none → s.executor.executing = some r → s.executor.commit = none → s.executor.increment = some i →
    (∀ (b : IncrementEntry) (run : Run) (w : CellWord),
      s.array.inFlight = some { owner := some .executor, op := .program run.page (run.first + run.done) w } →
      i.composed = some b → i.run = some run →
      let wrote (content : CellContent) (limit : Nat) : ArrayState := { s.array with
        inFlight := none, executorRequest := some .program
        cells := s.array.cells.write (cellAddress run.page (run.first + run.done)) content
        table := s.array.table.set run.page { s.page run.page with used := max (s.page run.page).used limit } }
      let faulted : ArrayState :=
        { wrote .indeterminate (max (run.first + run.done + 1) (run.first + run.words.length)) with
          faulted := s.array.faulted ++ [{ page := run.page, first := run.first, count := run.words.length }] }
      (run.done + 1 < run.words.length → exec (.programComplete .ok) s = .next { s with
        array := wrote (.word w) (run.first + run.done + 1)
        executor := { s.executor with increment := some { i with run := some { run with done := run.done + 1 } } } }) ∧
      (i.failures + 1 < 3 → exec (.programComplete .verifyFail) s = .next { s with
        array := faulted
        executor := { s.executor with increment := some { i with run := none, failures := i.failures + 1 } } }) ∧
      (i.failures = 2 →
        let ended : State := State.raise { s with
          array := match s.openPage with
            | none => { faulted with executorRequest := none }
            | some p => { faulted with
              executorRequest := none, appendPoint := none
              table := faulted.table.set p { faulted.table.get p with state := .sealed } }
          executor := { s.executor with increment := none } }
            (.media (s.openPage.getD run.page) .programRetriesExhausted)
        ended.finishes r → exec (.programComplete .verifyFail) s = .next (ended.answered r [0x32]))) ∧
    ∀ cells : Nat,
      (∃ b, i.composed = some b ∧ b.words.length = cells) ∨ (i.composed = none ∧ ∃ e value bumps,
        s.entryOf i.ident = some e ∧ e.body = .tally value bumps ∧ cells = if bumps.length < 32 then 1 else 2) →
      s.array.inFlight = none → s.chooseRequester = some .executor → s.executor.blobRead = none → i.run = none →
      s.openPage = none ∨ s.freeCells < cells →
      let granted : State := { s with array := { s.array with executorRequest := none } }
      (∀ u, granted.pageSwitch .executor = some u → exec .arbiterGrant s = .next u) ∧
      (granted.pageSwitch .executor = none → s.finishes r → State.demands (State.answered { granted with
        executor := { s.executor with increment := none } } r [0x30]) (exec .arbiterGrant s))

/-- READ of a mount: each of its 256 reads is followed by the next, and the eighth of a page judges the page: its erase
count and sequence number where its headers are valid, its class, its used extent, and its valid entries, found cell by
cell by their content alone. An entry is valid where its code, its cell count inside the page, its check value and its
ranges agree. At the close of a FORMAT a page that the format did not erase is to be erased whatever it reads. After the
last read every page has the record RESOLVE gives it, and the first erase is requested, or with no page to erase the mount
settles (MountErasesAndSettles). What indeterminate cells read as is log entry 5. -/
def Obligations.MountReadsAndJudges : Prop :=
  (∀ (m : MountRecord) (noise : List CellWord) (p : PageIx) (first count : Nat) (s : State), s.restarting = none →
    s.array.inFlight = some { owner := some .mount, op := .read p first count } → s.nothingToTake → s.mount = some m →
    let got := s.array.cells.readRun (cellAddress p first) count noise s.freeIndex
    let words := m.pageWords ++ got.1
    let page : PageIx := Fin.ofNat 32 (m.readIndex / 8)
    let asks (n : MountRecord) : State := { s with
      freeIndex := got.2, mount := some n, array := { s.array with inFlight := none, mountRequest := some .read } }
    (m.readIndex < 255 → m.readIndex % 8 ≠ 7 → exec (.readComplete noise) s
      = .next (asks { m with readIndex := m.readIndex + 1, pageWords := words })) ∧
    (m.readIndex < 255 → m.readIndex % 8 = 7 → exec (.readComplete noise) s = .next (asks { m with
      readIndex := m.readIndex + 1, pageWords := [], scans := m.scans ++ [scanPage m.closing page words] })) ∧
    (m.readIndex = 255 → s.link.queue = [] →
      let scans := m.scans ++ [scanPage m.closing page words]
      let order := eraseOrder scans
      let supplied := mountEraseCount scans
      let r := resolve m.closing scans
      let resolved : MountRecord := { m with
        readIndex := 256, pageWords := [], scans, result := some r, toErase := order, eraseCount := supplied }
      ∃ table : Vector PageRec 32,
        ((scans.map PageScan.page).Nodup → ∀ x ∈ afterDiscards scans,
          table.get x.page = resolvedRec r.directory supplied x) ∧
        (∀ q, q ∉ scans.map PageScan.page → table.get q = s.page q) ∧
        let read : State := { s with freeIndex := got.2, array := { s.array with inFlight := none, table } }
        (order ≠ [] → exec (.readComplete noise) s = .next { read with
          mount := some resolved, array := { read.array with mountRequest := some .erase } }) ∧
        (order = [] → exec (.readComplete noise) s = .next (State.settleMount read resolved r)))) ∧
  (∀ (closing : Option (List PageIx)) (page : PageIx) (words : List CellWord), words.length = 128 →
    let scan := scanPage closing page words
    let cell (k : Nat) : CellWord := words.getD k blankCell
    scan.page = page ∧ scan.wear = wearCount (cell 0) ∧ scan.sequence = openSequence (cell 1) ∧
      scan.entries = judgeCells (fun _ => false) (words.drop 2) 2 0 ∧
      (2 ≤ scan.extent ∧ scan.extent ≤ 128 ∧ (∀ k, scan.extent ≤ k → k < 128 → cell k = blankCell) ∧
        (2 < scan.extent → cell (scan.extent - 1) ≠ blankCell)) ∧
      ((∃ erased, closing = some erased ∧ page ∉ erased) → scan.cls = .pendingErase) ∧
      ((∀ erased, closing = some erased → page ∈ erased) →
        (wearCount (cell 0) = none → scan.cls = .pendingErase) ∧
        (wearCount (cell 0) ≠ none → cell 1 = blankCell →
          ((∀ k, 2 ≤ k → k < 128 → cell k = blankCell) → scan.cls = .erased) ∧
          ((∃ k, 2 ≤ k ∧ k < 128 ∧ cell k ≠ blankCell) → scan.cls = .pendingErase)) ∧
        (wearCount (cell 0) ≠ none → cell 1 ≠ blankCell → openSequence (cell 1) = none → scan.cls = .pendingErase) ∧
        (wearCount (cell 0) ≠ none → openSequence (cell 1) ≠ none → scan.cls = .holdsEntries))) ∧
  (∀ (barred : Nat → Bool) (w : CellWord) (rest : List CellWord) (at' : Nat), judgeCells barred (w :: rest) at' 0
    = match judgeEntry (w :: rest) with
      | none => judgeCells barred rest (at' + 1) 0
      | some e =>
        if (List.range (entryCells e)).any (fun k => barred (at' + k)) then judgeCells barred rest (at' + 1) 0
        else (at', e) :: judgeCells barred ((w :: rest).drop (entryCells e)) (at' + entryCells e) 0) ∧
  ∀ (words : List CellWord) (e : Entry), judgeEntry words = some e →
    let header := words.headD blankCell
    let ranged (ident gen : Nat) : Prop := 1 ≤ ident ∧ ident ≤ 4094 ∧ 1 ≤ gen ∧ ident = cellField header 2 2 ∧
      gen = cellField header 8 4
    entryCells e ≤ words.length ∧ entryCells e = cellField header 13 1 ∧ checkMatches (words.take (entryCells e)) = true ∧
      match e with
      | .blob flags ident txn gen length => cellByte header 0 = 0x01 ∧ ranged ident gen ∧ length ≤ 240 ∧
        flags = cellByte header 1 ∧ txn = cellField header 4 4 ∧ length = cellField header 12 1 ∧
        entryCells e = 1 + (length + 15) / 16
      | .tallyBase flags ident txn gen value => cellByte header 0 = 0x02 ∧ ranged ident gen ∧
        flags = cellByte header 1 ∧ txn = cellField header 4 4 ∧ value = cellField (words.getD 1 blankCell) 0 4
      | .tombstone flags ident txn gen => cellByte header 0 = 0x03 ∧ ranged ident gen ∧
        flags = cellByte header 1 ∧ txn = cellField header 4 4
      | .bump ordinal ident delta gen => cellByte header 0 = 0x04 ∧ ranged ident gen ∧ 1 ≤ ordinal ∧ ordinal ≤ 32 ∧
        1 ≤ delta ∧ ordinal = cellField header 1 1 ∧ delta = cellField header 4 2
      | .marker txn count => cellByte header 0 = 0x05 ∧ txn = cellField header 4 4 ∧ count = cellField header 12 1
      | .release victim sequence => cellByte header 0 = 0x06 ∧ victim ≤ 31 ∧ victim = cellField header 1 1 ∧
        sequence = cellField header 4 4
      | .formatMark => cellByte header 0 = 0x07

/-- RESOLVE of a mount: the pages a RELEASE or a FORMAT_MARK discards; the sweep of the kept pages by sequence number and
index; the markers that match, by the distinct identifiers of their transaction met before them; the candidates; the
current entry of an identifier, the last of the highest generation; the current bumps of a tally, the last of each
ordinal; the directory entries, of which the lowest 512 identifiers are kept; live cells, carry pairs and torn
transactions; the counters, from every page; the order of the erases and the erase count they supply. Which marks and
which pages count is the model's reading (log entries 13 and 14); what the record of a page to be erased holds beside its
erase count is its choice (log entry 33), and so is that the counters of a FORMAT's closing mount come from every page the
format erased OK, the number of whose open header may stand still, against the 1 of R142 (log entry 39). -/
def Obligations.MountResolves : Prop :=
  (∀ scans : List PageScan,
    let after := afterDiscards scans
    let discarded (x : PageScan) : Prop :=
      (∃ y ∈ scans, y.sequence ≠ none ∧ ∃ at', (at', Entry.release x.page.val (x.sequence.getD 0)) ∈ y.entries) ∨
        ∃ y ∈ scans, y.cls = .holdsEntries ∧ (∃ at', (at', Entry.formatMark) ∈ y.entries) ∧
          x.sequence.getD 0 ≤ y.sequence.getD 0
    let number (x : PageScan) : Nat := x.sequence.getD 0
    let marked (x : PageScan) : Prop := ∃ at', (at', Entry.formatMark) ∈ x.entries
    let kept := keptPages scans
    let order := eraseOrder scans
    after.length = scans.length ∧
    (∀ (i : Nat) (x : PageScan), scans[i]? = some x →
      (x.cls = .holdsEntries → discarded x → after[i]? = some { x with cls := .pendingErase }) ∧
      (x.cls ≠ .holdsEntries ∨ ¬discarded x → after[i]? = some x)) ∧
    kept.Perm (after.filter (fun x => x.cls = .holdsEntries)) ∧
    kept.Pairwise (fun x y => number x < number y ∨ (number x = number y ∧ x.page ≤ y.page)) ∧
    order.Perm ((after.filter (fun x => x.cls = .pendingErase)).map PageScan.page) ∧
    ((scans.map PageScan.page).Nodup → ∀ x ∈ after, ∀ y ∈ after, x.cls = .pendingErase → y.cls = .pendingErase →
      (x.sequence = none ∧ y.sequence = none ∧ x.page < y.page) ∨ (x.sequence = none ∧ y.sequence ≠ none) ∨
        (x.sequence ≠ none ∧ y.sequence ≠ none ∧ number x < number y) ∨
        (x.sequence ≠ none ∧ x.sequence = y.sequence ∧ ¬marked x ∧ marked y) → List.Sublist [x.page, y.page] order) ∧
    (∀ n, (∀ x ∈ scans, x.wear.getD 0 ≤ n) → (n = 0 ∨ ∃ x ∈ scans, x.wear = some n) → mountEraseCount scans = n)) ∧
  (∀ (before : List Swept) (x : Swept),
    let idents (txn : Nat) : List Nat := (before.filterMap (fun y => match versionOf y.entry with
      | some (ident, t, self) => if t = txn ∧ self = false then some ident else none
      | none => none)).eraseDups
    (∀ txn count, x.entry = .marker txn count → matchingMarkers [] (before ++ [x]) = matchingMarkers [] before
      ++ if count = (idents txn).length then [(txn, x.loc.page)] else []) ∧
    ((∀ txn count, x.entry ≠ .marker txn count) → matchingMarkers [] (before ++ [x]) = matchingMarkers [] before)) ∧
  (∀ (before after : List (Nat × PageIx)) (c : Nat × PageIx), (∀ y ∈ after, y.1 ≠ c.1) →
    commitPageOf (before ++ c :: after) c.1 = some c.2) ∧
  (∀ (directory : List DirEntry) (supplied : Nat) (x : PageScan),
    let count := x.wear.getD supplied
    (x.cls = .pendingErase → resolvedRec directory supplied x
      = { state := .pendingErase, eraseCount := count, sequence := none, used := 2, live := 0 }) ∧
    (x.cls = .erased → resolvedRec directory supplied x
      = { state := .erased, eraseCount := count, sequence := none, used := 2, live := 0 }) ∧
    (x.cls = .holdsEntries → resolvedRec directory supplied x
      = { state := .sealed, eraseCount := count, sequence := x.sequence, used := x.extent
          live := (directory.map (fun e => (if e.loc.page = x.page then currentCells e else 0)
            + ((bumpsOf e).filter (fun b => b.loc.page = x.page)).length)).sum })) ∧
  (∀ (commits : List (Nat × PageIx)) (x : Swept), isCandidate commits x = true ↔
    (∃ ident txn, versionOf x.entry = some (ident, txn, true)) ∨ (∃ o i d g, x.entry = .bump o i d g) ∨
      ∃ ident txn page, versionOf x.entry = some (ident, txn, false) ∧ (txn, page) ∈ commits) ∧
  (∀ candidates : List Swept,
    let current := currentEntries candidates
    let version (ident : Nat) (x : Swept) : Prop := ∃ txn self, versionOf x.entry = some (ident, txn, self)
    (current.map (fun c => c.1)).Pairwise (fun a b => a < b) ∧
    (∀ before x after ident, candidates = before ++ x :: after → version ident x →
      (∀ y ∈ before, version ident y → entryGen y.entry ≤ entryGen x.entry) →
      (∀ y ∈ after, version ident y → entryGen y.entry < entryGen x.entry) → (ident, x) ∈ current) ∧
    (∀ ident x, (ident, x) ∈ current → x ∈ candidates ∧ version ident x) ∧
    (∀ before x after ordinal ident delta gen, candidates = before ++ x :: after → x.entry = .bump ordinal ident delta gen →
      1 ≤ ordinal → ordinal ≤ 32 → (∀ y ∈ after, ∀ d, y.entry ≠ .bump ordinal ident d gen) →
      (({ ordinal, loc := x.loc } : BumpLoc), delta) ∈ currentBumps candidates ident gen) ∧
    (∀ ident gen b delta, (b, delta) ∈ currentBumps candidates ident gen →
      ∃ x ∈ candidates, x.loc = b.loc ∧ x.entry = .bump b.ordinal ident delta gen) ∧
    (∀ ident gen, ((currentBumps candidates ident gen).map (fun b => b.1.ordinal)).Pairwise (fun a b => a < b)) ∧
    ∀ ident x, (ident, x) ∈ current →
      let e := formEntry candidates (ident, x)
      let bumps := currentBumps candidates ident (entryGen x.entry)
      let others := (candidates.filter (fun y => entryIdent y.entry = some ident)).length - 1
      e.ident = ident ∧ e.gen = entryGen x.entry ∧ e.loc = x.loc ∧
        (∀ flags txn gen length, x.entry = .blob flags ident txn gen length → e.body = .blob length ∧ e.stale = others) ∧
        (∀ flags txn gen, x.entry = .tombstone flags ident txn gen → e.body = .tombstone ∧ e.stale = others) ∧
        ∀ flags txn gen value, x.entry = .tallyBase flags ident txn gen value →
          e.body = .tally (min (value + (bumps.map (fun b => b.2)).sum) 4294967295) (bumps.map (fun b => b.1)) ∧
            e.stale = others - bumps.length) ∧
  ∀ (closing : Option (List PageIx)) (scans : List PageScan),
    let r := resolve closing scans
    let sweep := sweepOf (keptPages scans)
    let commits := matchingMarkers [] sweep
    let candidates := sweep.filter (fun x => isCandidate commits x)
    let current := currentEntries candidates
    let counted := scans.filter (fun x => closing.all (fun erased => decide (x.page ∈ erased)))
    let numbers := counted.flatMap (fun x => x.entries.map (fun e => numberOfEntry e.2))
    let sequences := counted.flatMap (fun x => x.sequence.toList ++ x.entries.map (fun e => releaseSequence e.2))
    r.directory = (current.take 512).map (formEntry candidates) ∧ (r.truncated = true ↔ 512 < current.length) ∧
    (r.formatMark = true ↔ ∃ x ∈ scans, x.cls = .holdsEntries ∧ ∃ at', (at', Entry.formatMark) ∈ x.entries) ∧
    (∀ pair, pair ∈ r.carry ↔ ∃ x ∈ sweep, ∃ ident page, versionOf x.entry = some (ident, pair.txn, false) ∧
      x.loc.page = pair.page ∧ (pair.txn, page) ∈ commits ∧ commitPageOf commits pair.txn ≠ some pair.page) ∧
    (∀ torn : List Nat, torn.Nodup → (∀ txn, txn ∈ torn ↔
        (∃ x ∈ sweep, (∃ count, x.entry = .marker txn count) ∨ ∃ ident, versionOf x.entry = some (ident, txn, false)) ∧
          ∀ page, (txn, page) ∉ commits) → r.torn = min torn.length 65535) ∧
    (∀ n, (∀ c ∈ commits, c.1 ≤ n) → (n = 0 ∨ ∃ c ∈ commits, c.1 = n) → r.lastCommitted = n) ∧
    (∀ n, (∀ k ∈ numbers, k ≤ n) → (n = 0 ∨ n ∈ numbers) → r.nextNumber = min (n + 1) 4294967295) ∧
    ∀ n, (∀ k ∈ sequences, k ≤ n) → (n = 0 ∨ n ∈ sequences) →
      r.nextSequence = if n < 4294967295 then some (n + 1) else none

/-- A mount's erase completes: the page becomes ERASED with the supplied count and the next erase is requested; after
VERIFY_FAIL the erase is requested once more, and after a second one the page becomes RETIRED and keeps its count. After
the last erase the mount settles: the resolved directory, carry list and counters stand, the kept page with the highest
sequence number is OPEN if it has a free cell, the store is READY, or READ_ONLY with fewer than 6 usable pages, a
truncated directory or no sequence number left, and the automatic demand is set with fewer than 2 ERASED pages or more
than 64 tombstones. After a restart the report is built and START raised, and then a SUPPLY notice that was deferred; at
the close of a FORMAT the report's summary alone is replaced, no START is raised, and the FORMAT is answered OK with the
number of usable pages. The pages are counted in the summary before the engine begins the run that a demand in READY
starts (log entry 34): with the supply NORMAL it takes a victim, asks to seal the OPEN page, or ends the run, with
SPACE_LOW at 2 or fewer ERASED pages. -/
def Obligations.MountErasesAndSettles : Prop :=
  (∀ (m : MountRecord) (p : PageIx) (count : Nat) (s : State), s.restarting = none →
    s.array.inFlight = some { owner := some .mount, op := .erase p count } → s.nothingToTake → s.mount = some m →
    (∀ rest, m.toErase = p :: rest → m.retried = false → ∃ t, exec (.eraseComplete .verifyFail) s = .next t ∧
      t.page p = s.page p ∧ t.mount = some { m with retried := true } ∧ t.array.mountRequest = some .erase) ∧
    (∀ q rest, m.toErase = p :: q :: rest →
      (∃ t, exec (.eraseComplete .ok) s = .next t ∧
        t.page p = { state := .erased, eraseCount := count, sequence := none, used := 2, live := 0 } ∧
        t.mount = some { m with toErase := q :: rest, retried := false, erasedCount := m.erasedCount + 1 } ∧
        t.array.mountRequest = some .erase) ∧
      (m.retried = true → ∃ t, exec (.eraseComplete .verifyFail) s = .next t ∧
        t.page p = { state := .retired, eraseCount := (s.page p).eraseCount, sequence := none, used := 2, live := 0 } ∧
        t.mount = some { m with toErase := q :: rest, retried := false, retiredCount := m.retiredCount + 1 } ∧
        t.array.mountRequest = some .erase)) ∧
    ∀ r, m.toErase = [p] → m.result = some r → s.link.queue = [] → s.executor.commit = none →
      let gone (cells : Memory) (state : PageState) (n : Nat) : State := { s with
        carry := s.carry.filter (fun x => x.page ≠ p)
        array := { s.array with
          inFlight := none, cells
          table := s.array.table.set p { state, eraseCount := n, sequence := none, used := 2, live := 0 }
          appendPoint := if s.openPage = some p then none else s.array.appendPoint
          faulted := s.array.faulted.filter (fun x => x.page ≠ p) } }
      exec (.eraseComplete .ok) s = .next (State.settleMount
        (gone ((s.array.cells.clearPage p).write (cellAddress p 0) (.word (wearHeader count))) .erased count)
        { m with toErase := [], retried := false, erasedCount := m.erasedCount + 1 } r) ∧
      (m.retried = true → exec (.eraseComplete .verifyFail) s = .next (State.settleMount
        (gone (s.array.cells.spoilPage p) .retired (s.page p).eraseCount)
        { m with toErase := [], retried := false, retiredCount := m.retiredCount + 1 } r))) ∧
  ∀ (m : MountRecord) (r : MountResult) (s : State), s.restarting = none → s.compaction = Compaction.idle → ∃ t : State,
    let ended := s.settleMount m r
    let kept (q : PageIx) : Prop := (s.page q).state = .sealed
    let demand : Prop := t.erasedCount < 2 ∨ 64 < t.tombstoneCount
    let usable := ((List.finRange 32).filter (fun q => (t.page q).state ≠ .retired)).length
    let summary : Summary :=
      { store := t.store, erasedPages := t.erasedCount, openPages := t.countIn .opened
        sealedPages := t.countIn .sealed, retiredPages := t.countIn .retired
        pagesErased := m.erasedCount, pagesRetired := m.retiredCount, torn := r.torn
        lastCommitted := r.lastCommitted, liveRecords := r.directory.length - t.tombstoneCount
        tombstones := t.tombstoneCount, formatMark := r.formatMark, truncated := r.truncated }
    let report : Report := { cause := s.notices.currentCause, earlier := s.notices.earlierCauses, summary }
    let start : Notice := { number := s.notices.nextNumber, lost := 0, content := .start report }
    let demanded : Compaction := { Compaction.idle with automaticDemand := true }
    (t.mount = none ∧ t.directory = r.directory ∧ t.carry = r.carry ∧ t.txn = { s.txn with nextNumber := r.nextNumber } ∧
      t.array.nextSequence = r.nextSequence ∧ t.array.faulted = [] ∧ t.array.cells = s.array.cells) ∧
    t.store = (if usable < 6 ∨ r.truncated = true ∨ r.nextSequence = none then .readOnly else .ready) ∧
    ((demand → t.compaction = demanded) ∧ (¬demand → t.compaction = Compaction.idle)) ∧
    ((∀ q, ¬kept q) → t.array.table = s.array.table ∧ t.array.appendPoint = none) ∧
    (∀ q, kept q → (∀ x, x ≠ q → kept x → (s.page x).sequence.getD 0 < (s.page q).sequence.getD 0 ∨
        ((s.page x).sequence.getD 0 = (s.page q).sequence.getD 0 ∧ x < q)) →
      ((s.page q).used < 128 → t.array.table = s.array.table.set q { s.page q with state := .opened } ∧
        t.array.appendPoint = some (s.page q).used) ∧
      (128 ≤ (s.page q).used → t.array.table = s.array.table ∧ t.array.appendPoint = none)) ∧
    (m.closing = none → s.supply.resetNHigh = true →
      t.executor = s.executor ∧ t.notices.report = report ∧ t.notices.startAcknowledged = false ∧
      (s.notices.deferred = false → s.notices.queue.length < 8 → t.notices.queue = s.notices.queue ++ [start]) ∧
      (s.notices.deferred = true → s.notices.queue.length < 7 → t.notices.deferred = false ∧
        t.notices.queue = s.notices.queue ++ [start,
          { number := if start.number < 255 then start.number + 1 else 1, lost := 0
            content := .supply .cautionLongBegin }])) ∧
    (∀ erased q, m.closing = some erased → s.finishes q →
      t.link = (s.answered q ([0x00] ++ beBytes 1 usable)).link ∧
        t.executor = { s.executor with executing := none, format := none } ∧
        t.notices = { s.notices with report := { s.notices.report with summary } }) ∧
    (t.store = .readOnly ∨ ¬demand → ended = t) ∧
    (t.store = .ready → demand → t.selects 0 true 0 0 (.next ended))

/-! ### Compaction -/

/-- The engine's victim is the SEALED page with the most dead cells and no run of the executor in programming, and of
several the one with the lowest sequence number. -/
def Obligations.VictimHasTheMostDeadCells : Prop :=
  ∀ s : State,
    let dead (p : PageIx) : Nat := (s.page p).used - 2 - (s.page p).live
    let eligible (p : PageIx) : Prop := (s.page p).state = .sealed ∧ 1 ≤ dead p ∧ ∀ r, s.executorRun = some r → r.page ≠ p
    (∀ p, s.bestVictim = some p → eligible p ∧ ∀ q, eligible q → dead q < dead p ∨
      (dead q = dead p ∧ (s.page p).sequence.getD 0 ≤ (s.page q).sequence.getD 0)) ∧
    (s.bestVictim = none → ∀ q, ¬eligible q)

/-- The survey reads the victim's cells 2 to its used limit in runs of at most 16; its records are the valid entries
outside the faulted runs of the victim, the cells above those read being blank (log entry 31), each marked committed or
not; the walk then begins. A record's action is that of the first row that applies: passed over, counted, dropped, copied
or a tally's. At a tally's base or current bump the walk waits, with no request, while a COMMITTING transaction with a
program granted stages the tally; else the tally joins the folded set and the fold's program is requested, or at the
generation limit, or in the folded set already, the read of a copy, which is the model's reading (log entry 25). A record
passed over, counted or dropped takes no array operation, and after the last record the RELEASE's program is requested. A
read that completes once the walk has to stop ends it (log entry 19). A copy begins with a read of the record's run, and
carries the entry as read: a valid BLOB, TALLY_BASE or TOMBSTONE with SELF set and its check anew, every other byte as it
was, a bump byte for byte. A count raised is that of its identifier alone. What indeterminate cells read as is log entry
5. -/
def Obligations.CompactionSurveysAndWalks : Prop :=
  (∀ (v : PageIx) (s : State), s.restarting = none → s.compaction.victim = some v → s.nothingToTake →
    let first := 2 + s.compaction.surveyed.length
    (s.array.inFlight = none → s.chooseRequester = some .compaction → s.compaction.run = none →
      (s.compaction.action = .survey → exec .arbiterGrant s = .next { s with array := { s.array with
        compactionRequest := none
        inFlight := some { owner := some .compaction, op := .read v first (min 16 ((s.page v).used - first)) } } }) ∧
      ∀ k rec, s.compaction.action = .readCopy → s.compaction.walk = some k → s.compaction.survey[k]? = some rec →
        exec .arbiterGrant s = .next { s with array := { s.array with
          compactionRequest := none
          inFlight := some { owner := some .compaction, op := .read v rec.first (entryCells rec.entry) } } }) ∧
    (∀ (noise : List CellWord) (at' count : Nat), s.compaction.stopping = true →
      s.array.inFlight = some { owner := some .compaction, op := .read v at' count } →
      walkGivenUp (exec (.readComplete noise) s) v s.store) ∧
    ∀ (noise : List CellWord) (at' count : Nat),
      s.array.inFlight = some { owner := some .compaction, op := .read v at' count } → s.compaction.stopping = false →
      let got := s.array.cells.readRun (cellAddress v at') count noise s.freeIndex
      let read := s.compaction.surveyed ++ got.1
      let asks (c : Compaction) (op : RequestOp) : State := { s with
        freeIndex := got.2, compaction := c, array := { s.array with inFlight := none, compactionRequest := some op } }
      (s.compaction.action = .survey → 2 + read.length < (s.page v).used →
        exec (.readComplete noise) s = .next (asks { s.compaction with surveyed := read } .read)) ∧
      (s.compaction.action = .survey → (s.page v).used ≤ 2 + read.length →
        exec (.readComplete noise) s = .next (State.walk { s with
          freeIndex := got.2
          array := { s.array with inFlight := none }
          compaction := { s.compaction with
            surveyed := read, survey := s.buildSurvey v read, walk := some 0, action := .none } })) ∧
      ∀ k rec, s.compaction.action = .readCopy → s.compaction.walk = some k → s.compaction.survey[k]? = some rec →
        (∀ ordinal ident delta gen, rec.entry = .bump ordinal ident delta gen → exec (.readComplete noise) s
          = .next (asks { s.compaction with action := .copy got.1 false } .program)) ∧
        ((versionOf rec.entry).isSome → exec (.readComplete noise) s
          = .next (asks { s.compaction with action := .copy (copyWords got.1) false } .program))) ∧
  (∀ (v : PageIx) (words : List CellWord) (s : State),
    let entries := judgeCells (fun cell => s.array.faulted.any (fun f => f.page = v ∧ f.first ≤ cell ∧ cell < f.first + f.count))
      (words ++ List.replicate (126 - words.length) blankCell) 2 0
    let idents (txn : Nat) : List Nat := (entries.filterMap (fun x => match versionOf x.2 with
      | some (ident, t, self) => if t = txn ∧ self = false then some ident else none
      | none => none)).eraseDups
    (s.buildSurvey v words).map (fun x => (x.first, x.entry)) = entries ∧
      ∀ rec ∈ s.buildSurvey v words,
        (∀ ident txn, versionOf rec.entry = some (ident, txn, true) → rec.committed = true) ∧
        (∀ ordinal ident delta gen, rec.entry = .bump ordinal ident delta gen → rec.committed = true) ∧
        ∀ ident txn, versionOf rec.entry = some (ident, txn, false) → (rec.committed = true ↔
          (∃ first, (first, Entry.marker txn (idents txn).length) ∈ entries) ∨ ({ page := v, txn } : CarryPair) ∈ s.carry)) ∧
  (∀ (words : List CellWord) (e : Entry), judgeEntry words = some e → words.length = entryCells e →
    let copied := copyWords words
    let same : Prop := copied.length = words.length ∧ copied.drop 1 = words.drop 1 ∧
      ∀ k, k < 14 → k ≠ 1 → cellByte (copied.headD blankCell) k = cellByte (words.headD blankCell) k
    (∀ flags ident txn gen length, e = .blob flags ident txn gen length →
      judgeEntry copied = some (.blob (flags ||| 1) ident txn gen length) ∧ same) ∧
    (∀ flags ident txn gen value, e = .tallyBase flags ident txn gen value →
      judgeEntry copied = some (.tallyBase (flags ||| 1) ident txn gen value) ∧ same) ∧
    ∀ flags ident txn gen, e = .tombstone flags ident txn gen →
      judgeEntry copied = some (.tombstone (flags ||| 1) ident txn gen) ∧ same) ∧
  (∀ (counts : List (Nat × Nat)) (ident n other : Nat), victimCount (raiseCount counts ident n) other
    = victimCount counts other + if other = ident then n else 0) ∧
  ∀ (v : PageIx) (k : Nat) (rec : SurveyRec) (s : State), s.compaction.victim = some v → s.compaction.walk = some k →
    let here : Loc := { page := v, cell := rec.first }
    let committed (x : SurveyRec) : Prop := x.committed = true ∨
      ∃ ident txn self, versionOf x.entry = some (ident, txn, self) ∧ ({ page := v, txn } : CarryPair) ∈ s.carry
    let next (t : State) : State := State.walk { t with compaction := { t.compaction with
      action := .none, walk := if k + 1 < t.compaction.survey.length then some (k + 1) else none } }
    let asks (a : Action) (op : RequestOp) : State :=
      { s with compaction := { s.compaction with action := a }, array := { s.array with compactionRequest := some op } }
    let barred (ident : Nat) : Prop := s.txn.state = .committing ∧
      (∃ c, s.executor.commit = some c ∧ c.granted = true) ∧ ∃ op ∈ s.txn.staging, opIdent op = ident
    let arrives (ident gen : Nat) : Prop :=
      let folds (a : Action) (op : RequestOp) : State := { s with
        compaction := { s.compaction with folded := s.compaction.folded ++ [ident], action := a }
        array := { s.array with compactionRequest := some op } }
      (ident ∈ s.compaction.folded → s.walk = asks .readCopy .read) ∧
      (ident ∉ s.compaction.folded →
        (barred ident → s.walk = { s with
          compaction := { s.compaction with action := .awaitCommit }, array := { s.array with compactionRequest := none } }) ∧
        (¬barred ident → gen ≤ 4294967293 → s.walk = folds (.fold none) .program) ∧
        (¬barred ident → 4294967293 < gen → s.walk = folds .readCopy .read))
    let releases (t : State) : State := { t with
      compaction := { t.compaction with phase := .release, walk := none, action := .release }
      array := { t.array with compactionRequest := some .program } }
    (∀ t : State, t.compaction.walk = none → t.walk = releases t) ∧
    (s.compaction.survey[k]? = none → s.walk = releases s) ∧
    (s.compaction.survey[k]? = some rec →
      (entryIdent rec.entry = none ∨ ¬committed rec → s.walk = next s) ∧
      ∀ ident, entryIdent rec.entry = some ident → committed rec →
        (s.entryOf ident = none → s.walk = next s) ∧
        ∀ e, s.entryOf ident = some e →
          let counted := next { s with compaction := { s.compaction with
            victimCounts := raiseCount s.compaction.victimCounts ident 1 } }
          let current (ordinal gen : Nat) : Prop := gen = e.gen ∧ ({ ordinal, loc := here } : BumpLoc) ∈ bumpsOf e
          (∀ ordinal delta gen, rec.entry = .bump ordinal ident delta gen → ¬current ordinal gen → s.walk = counted) ∧
          (∀ ordinal delta gen, rec.entry = .bump ordinal ident delta gen → current ordinal gen →
            arrives ident e.gen) ∧
          (∀ txn self, versionOf rec.entry = some (ident, txn, self) →
            (e.loc ≠ here → s.walk = counted) ∧
            (e.loc = here →
              (∀ flags gen length, rec.entry = .blob flags ident txn gen length → s.walk = asks .readCopy .read) ∧
              (∀ flags gen base, rec.entry = .tallyBase flags ident txn gen base → arrives ident e.gen) ∧
              ∀ flags gen, rec.entry = .tombstone flags ident txn gen →
                let others := (s.compaction.survey.filter (fun x =>
                  entryIdent x.entry = some ident ∧ s.committedNow v x = true ∧ x.first ≠ rec.first)).length
                (others ≠ e.stale → s.walk = asks .readCopy .read) ∧
                (others = e.stale → s.walk = next { s with compaction := { s.compaction with
                  drops := s.compaction.drops ++ [(ident, here)] } }))))

/-- The engine's programs. The first cell of a copy, of a fold or of the RELEASE is placed at the append point where it
fits; the fold is composed there from the directory, none is written where the generation of the victim's entry is no
longer the directory's, and a retry writes it as composed. A fold that the directory no longer bears out lapses at its
next grant: its run ends early and the walk moves on (log entry 28). A program that does not fit makes a page switch, and
one that finds no ERASED page ends the walk with SPACE_LOW. The last cell completes OK and the walk goes on: the directory
moves to the copy where it still names the original, and the copy is dead on arrival otherwise; a bump's copy takes its
ordinal's place; a fold takes the tally's generation up and its bumps in (its test at the completion is the model's
choice, log entry 28). Where the walk has to stop, it ends once the outcome has been applied, short of the entry's end
with the run ended early (log entry 19). After the RELEASE each drop candidate that is still a tombstone at its location
leaves the directory, with its victim count and its live cell, and the erase is requested. VERIFY_FAIL: the run joins the
faulted runs and the entry is programmed again; at the third failure the victim and the OPEN page are SEALED, MEDIA is
raised, the demands are cleared and the run ends. The open header that seals the OPEN page is granted as a page switch,
and where none can be made the engine chooses again (log entry 18). (The notices that join the queue are stated for
RESET_N high.) -/
def Obligations.CompactionEntriesComplete : Prop :=
  (∀ (v : PageIx) (s : State), s.restarting = none → s.compaction.victim = some v → (s.page v).state = .victim →
    s.nothingToTake →
    let standsAt (k : Nat) (rec : SurveyRec) (e : DirEntry) : Prop := s.compaction.walk = some k ∧
      s.compaction.survey[k]? = some rec ∧ ∃ ident, entryIdent rec.entry = some ident ∧ s.entryOf ident = some e
    let stands (f : FoldEntry) : Prop :=
      ∃ k rec e value bumps, standsAt k rec e ∧ e.body = .tally value bumps ∧ e.gen + 1 = f.gen
    let walkOn (k : Nat) (t : State) : State := State.walk { t with compaction := { t.compaction with
      action := .none, walk := if k + 1 < t.compaction.survey.length then some (k + 1) else none } }
    let granted : State := { s with array := { s.array with compactionRequest := none } }
    (s.array.inFlight = none → s.chooseRequester = some .compaction →
      (∀ (p : PageIx) (a : Nat), s.compaction.run = none → s.openPage = some p → s.array.appendPoint = some a →
        let placed (words : List CellWord) (action : Action) : State := { s with
          compaction := { s.compaction with
            action, run := some { page := p, first := a, words, done := 0 }, spend := s.compaction.spend + words.length }
          array := { s.array with
            compactionRequest := none, appendPoint := some (a + words.length)
            inFlight := some { owner := some .compaction, op := .program p a (words.getD 0 blankCell) } } }
        (∀ words again, s.compaction.action = .copy words again → words.length ≤ 128 - a →
          exec .arbiterGrant s = .next (placed words (.copy words true))) ∧
        (s.compaction.action = .release → 1 ≤ 128 - a → exec .arbiterGrant s
          = .next (placed (entryWords (.release v.val ((s.page v).sequence.getD 0)) []) .release)) ∧
        (∀ f, s.compaction.action = .fold (some f) → stands f → f.words.length ≤ 128 - a →
          exec .arbiterGrant s = .next (placed f.words (.fold (some f)))) ∧
        ∀ k rec e value bumps, s.compaction.action = .fold none → standsAt k rec e → e.body = .tally value bumps →
          let words := entryWords (.tallyBase 3 e.ident 0 (e.gen + 1) value) []
          e.gen = entryGen rec.entry → 2 ≤ 128 - a →
            exec .arbiterGrant s = .next (placed words (.fold (some { gen := e.gen + 1, value, words })))) ∧
      (∀ k rec e, s.compaction.run = none → s.compaction.action = .fold none → standsAt k rec e →
        e.gen ≠ entryGen rec.entry → exec .arbiterGrant s = .next (walkOn k granted)) ∧
      (∀ k f, s.compaction.action = .fold (some f) → s.compaction.walk = some k → ¬stands f →
        exec .arbiterGrant s = .next (walkOn k { s with
          compaction := { s.compaction with run := none, failures := 0 }
          array := match s.compaction.run with
            | none => granted.array
            | some run => { granted.array with
              faulted := s.array.faulted ++ [{ page := run.page, first := run.first, count := run.words.length }]
              table := s.array.table.set run.page
                { s.page run.page with used := max (s.page run.page).used (run.first + run.words.length) } } })) ∧
      ∀ cells : Nat, s.compaction.run = none → s.openPage = none ∨ s.freeCells < cells →
        (s.compaction.action = .release ∧ cells = 1) ∨
          (∃ words again, s.compaction.action = .copy words again ∧ words.length = cells) ∨
          (∃ f, s.compaction.action = .fold (some f) ∧ stands f ∧ f.words.length = cells) ∨
          (∃ k rec e, s.compaction.action = .fold none ∧ standsAt k rec e ∧ e.gen = entryGen rec.entry ∧ cells = 2) →
        (∀ u, granted.pageSwitch .compaction = some u → exec .arbiterGrant s = .next u) ∧
        (granted.pageSwitch .compaction = none → ∃ t, exec .arbiterGrant s = .next t ∧
          t.page v = { s.page v with state := .sealed } ∧ t.compaction = Compaction.idle ∧
          (s.supply.resetNHigh = true → ∃ n ∈ t.notices.queue, n.content = .spaceLow t.erasedCount))) ∧
    ∀ (run : Run) (w : CellWord),
      s.array.inFlight = some { owner := some .compaction, op := .program run.page (run.first + run.done) w } →
      s.compaction.run = some run →
      let cell := cellAddress run.page (run.first + run.done)
      let loc : Loc := { page := run.page, cell := run.first }
      let last : Prop := run.words.length = run.done + 1
      let wrote (content : CellContent) (limit : Nat) : ArrayState := { s.array with
        inFlight := none, cells := s.array.cells.write cell content
        table := s.array.table.set run.page { s.page run.page with used := max (s.page run.page).used limit } }
      let asks (a : ArrayState) (c : Compaction) : State :=
        { s with array := { a with compactionRequest := some .program }, compaction := c }
      let good : ArrayState := wrote (.word w) (run.first + run.done + 1)
      let faulted : ArrayState :=
        { wrote .indeterminate (max (run.first + run.done + 1) (run.first + run.words.length)) with
          faulted := s.array.faulted ++ [{ page := run.page, first := run.first, count := run.words.length }] }
      let stopped (outcome : Host.Outcome State Fault Refusal) (cells : Memory) : Prop :=
        walkGivenUp outcome v s.store ∧ ∀ t, outcome = .next t →
          t.directory = s.directory ∧ t.array.cells = cells ∧ t.array.faulted = faulted.faulted
      let settles (k : Nat) (directory : List DirEntry) (c : Compaction) (table : Vector PageRec 32) : Prop :=
        (s.compaction.stopping = false → exec (.programComplete .ok) s = .next (walkOn k { s with
          directory, compaction := { c with run := none, failures := 0 }, array := { good with table } })) ∧
        (s.compaction.stopping = true → walkGivenUp (exec (.programComplete .ok) s) v s.store ∧
          ∀ t, exec (.programComplete .ok) s = .next t → t.directory = directory ∧ t.array.cells = good.cells)
      let moved (from' : PageIx) (n : Nat) (table : Vector PageRec 32) : Prop := ∀ q : PageIx,
        (if q = from' then n else 0) ≤ (s.page q).live → table.get q = { good.table.get q with
          live := (s.page q).live + (if q = run.page then n else 0) - (if q = from' then n else 0) }
      (run.done + 1 < run.words.length →
        (s.compaction.stopping = false → exec (.programComplete .ok) s
          = .next (asks good { s.compaction with run := some { run with done := run.done + 1 } })) ∧
        (s.compaction.stopping = true → stopped (exec (.programComplete .ok) s) good.cells)) ∧
      (∀ k rec ident e, last → s.compaction.walk = some k → s.compaction.survey[k]? = some rec →
        entryIdent rec.entry = some ident → s.entryOf ident = some e →
        let original : Loc := { page := v, cell := rec.first }
        let counted (n : Nat) : Compaction :=
          { s.compaction with victimCounts := raiseCount s.compaction.victimCounts ident n }
        let superseded : List DirEntry :=
          s.directory.map (fun x => if x.ident = ident then { x with stale := x.stale + 1 } else x)
        (∀ words granted txn self, s.compaction.action = .copy words granted → versionOf rec.entry = some (ident, txn, self) →
          (e.loc = original → ∃ table, moved v (entryCells rec.entry) table ∧
            settles k (Machine.putEntry s.directory { e with loc, stale := e.stale + 1 }) (counted 1) table) ∧
          (e.loc ≠ original → settles k superseded s.compaction good.table)) ∧
        (∀ words granted ordinal delta gen, s.compaction.action = .copy words granted →
          rec.entry = .bump ordinal ident delta gen →
          (∀ value bumps, e.body = .tally value bumps → ({ ordinal, loc := original } : BumpLoc) ∈ bumps →
            ∃ table, moved v 1 table ∧ settles k
              (Machine.putEntry s.directory { e with
                stale := e.stale + 1
                body := .tally value
                  (bumps.map (fun b => if b = { ordinal, loc := original } then { ordinal, loc } else b)) })
              (counted 1) table) ∧
          (({ ordinal, loc := original } : BumpLoc) ∉ bumpsOf e → settles k superseded s.compaction good.table)) ∧
        ∀ f value bumps, s.compaction.action = .fold (some f) → e.body = .tally value bumps → e.gen + 1 = f.gen →
          let lost (q : PageIx) : Nat :=
            (if e.loc.page = q then 2 else 0) + (bumps.filter (fun b => b.loc.page = q)).length
          let passed := ((e.loc :: bumps.map BumpLoc.loc).filter (fun l => s.passedInVictim l)).length
          ∃ table, (∀ q : PageIx, lost q ≤ (s.page q).live → table.get q = { good.table.get q with
              live := (s.page q).live + (if q = run.page then 2 else 0) - lost q }) ∧
            settles k
              (Machine.putEntry s.directory
                { e with gen := f.gen, loc, stale := e.stale + 1 + bumps.length, body := .tally f.value [] })
              (if passed = 0 then s.compaction else counted passed) table) ∧
      (last → s.compaction.action = .release →
        let drops (ident : Nat) (at' : Loc) : Bool := (s.entryOf ident).any (fun e => e.body = .tombstone ∧ e.loc = at')
        let gone (ident : Nat) : Bool := s.compaction.drops.any (fun d => d.1 = ident ∧ drops d.1 d.2)
        ∃ table, exec (.programComplete .ok) s = .next { s with
            directory := s.directory.filter (fun e => gone e.ident = false)
            compaction := { s.compaction with
              phase := .erase, action := .erase false, drops := [], run := none, failures := 0
              victimCounts := s.compaction.victimCounts.filter (fun x => gone x.1 = false) }
            array := { good with table, compactionRequest := some .erase } } ∧
          ((s.compaction.drops.map (fun d => d.1)).Nodup → ∀ q : PageIx, table.get q = { good.table.get q with
            live := (s.page q).live - (s.compaction.drops.filter (fun d => drops d.1 d.2 ∧ d.2.page = q)).length })) ∧
      (s.compaction.failures + 1 < 3 →
        (s.compaction.stopping = false → exec (.programComplete .verifyFail) s
          = .next (asks faulted { s.compaction with run := none, failures := s.compaction.failures + 1 })) ∧
        (s.compaction.stopping = true → stopped (exec (.programComplete .verifyFail) s) faulted.cells)) ∧
      (s.compaction.failures = 2 → ∃ t, exec (.programComplete .verifyFail) s = .next t ∧
        (t.page v).state = .sealed ∧ (∀ p, s.openPage = some p → (t.page p).state = .sealed) ∧
        t.array.appendPoint = (if s.openPage = none then s.array.appendPoint else none) ∧
        t.array.faulted = faulted.faulted ∧ t.compaction = Compaction.idle ∧
        (s.supply.resetNHigh = true → ∃ n ∈ t.notices.queue, n.content = .media run.page .programRetriesExhausted))) ∧
  ∀ s : State, s.restarting = none → s.nothingToTake → s.array.inFlight = none → s.chooseRequester = some .compaction →
    s.compaction.run = none → s.compaction.action = .seal →
    let granted : State := { s with array := { s.array with compactionRequest := none } }
    (∀ u, granted.pageSwitch .compaction = some u → exec .arbiterGrant s = .next u) ∧
    ∀ host automatic victims reclaimed, granted.pageSwitch .compaction = none →
      s.compaction = { Compaction.selecting host automatic victims reclaimed with action := .seal } →
      granted.chooses (Compaction.selecting host automatic victims reclaimed) (exec .arbiterGrant s)

/-- The engine's victim is complete. Its erase completes OK: the victim becomes ERASED with the supplied count. Its second
erase ends VERIFY_FAIL: the victim becomes RETIRED and MEDIA is raised, and with fewer than 6 usable pages READY becomes
READ_ONLY, or the store state that a FORMAT in progress returns to. In either case the victim counts leave the stale
counts, the page's faulted runs and its carry pair go, the waits for the victim are over, the run counts the victim and,
of one erased, its reclaimed cells, and the host demand falls by 1. With the store READY the engine then enters SELECT: it
ends the run, COMPACTED telling of its victims, or chooses again. With the store READ_ONLY or FORMATTING the run ends. The
first VERIFY_FAIL is followed by one more erase. -/
def Obligations.VictimIsComplete : Prop :=
  ∀ (v : PageIx) (count : Nat) (second : Bool) (s : State),
    s.restarting = none → s.array.inFlight = some { owner := some .compaction, op := .erase v count } →
    s.nothingToTake → s.store ≠ .mounting → s.compaction.action = .erase second → s.compaction.victim = some v →
    let counted (ident : Nat) : Nat := ((s.compaction.victimCounts.filter (fun x => x.1 = ident)).map (fun x => x.2)).sum
    let gone (cells : Memory) (state : PageState) (n : Nat) : State := { s with
      directory := s.directory.map (fun e => { e with stale := e.stale - counted e.ident })
      carry := s.carry.filter (fun x => x.page ≠ v)
      executor := { s.executor with
        commit := s.executor.commit.map (fun c => if c.stage = .waiting then { c with waitOver := true } else c)
        increment := s.executor.increment.map (fun i => if i.waiting then { i with waitOver := true } else i) }
      array := { s.array with
        inFlight := none, cells
        table := s.array.table.set v { state, eraseCount := n, sequence := none, used := 2, live := 0 }
        appendPoint := if s.openPage = some v then none else s.array.appendPoint
        faulted := s.array.faulted.filter (fun x => x.page ≠ v) } }
    let erased : State := gone ((s.array.cells.clearPage v).write (cellAddress v 0) (.word (wearHeader count))) .erased count
    let retired : State := (gone (s.array.cells.spoilPage v) .retired (s.page v).eraseCount).raise (.media v .pageRetired)
    let usable := ((List.finRange 32).filter (fun q => q ≠ v ∧ (s.page q).state ≠ .retired)).length
    let victims := min (s.compaction.runVictims + 1) 255
    let reclaimed := min (s.compaction.runReclaimed + ((s.page v).used - 2 - s.compaction.spend)) 65535
    let same := min s.compaction.runReclaimed 65535
    (s.store = .ready → erased.selects (s.compaction.hostDemand - 1) s.compaction.automaticDemand victims reclaimed
      (exec (.eraseComplete .ok) s)) ∧
    (s.store ≠ .ready → exec (.eraseComplete .ok) s = .next (erased.runOver victims reclaimed)) ∧
    (second = false → exec (.eraseComplete .verifyFail) s = .next { s with
      compaction := { s.compaction with action := .erase true }
      array := { s.array with
        inFlight := none, compactionRequest := some .erase, cells := s.array.cells.spoilPage v } }) ∧
    (second = true →
      let outcome := exec (.eraseComplete .verifyFail) s
      (s.store = .ready → 6 ≤ usable →
        retired.selects (s.compaction.hostDemand - 1) s.compaction.automaticDemand victims same outcome) ∧
      (s.store = .ready → usable < 6 → outcome = .next (State.runOver { retired with store := .readOnly } victims same)) ∧
      (s.store = .readOnly ∨ (s.store = .formatting ∧ 6 ≤ usable) → outcome = .next (retired.runOver victims same)) ∧
      (s.store = .formatting → usable < 6 → outcome = .next (State.runOver { retired with executor := { retired.executor with
        format := s.executor.format.map (fun f => { f with previous := .readOnly }) } } victims same)))

/-- A walk that waits at a tally's record resumes once the transaction that stages the tally has left COMMITTING: at its
base or at a current bump the tally joins the folded set and the fold's program is requested; at the generation limit, or
where the tally is in the folded set, the copy's read is, a tally's copy beginning with a read in the model's reading (log
entry 25); a record whose tally a commit has replaced is counted and the walk goes on, here to its end. While that
transaction is COMMITTING with a program granted, or while the walk does not wait, nothing happens. That the resume is a
command of its own is the model's choice (log entry 3), and so is that the command does nothing without its occasion (log
entry 4). -/
def Obligations.WaitingWalkResumes : Prop :=
  ∀ (v : PageIx) (k ident : Nat) (rec : SurveyRec) (s : State),
    s.compaction.victim = some v → s.compaction.walk = some k → s.compaction.survey[k]? = some rec →
    entryIdent rec.entry = some ident →
    let here : Loc := { page := v, cell := rec.first }
    let barred : Prop := s.txn.state = .committing ∧ (∃ c, s.executor.commit = some c ∧ c.granted = true) ∧
      ∃ op ∈ s.txn.staging, opIdent op = ident
    let current (e : DirEntry) : Prop :=
      (∃ flags txn gen base, rec.entry = .tallyBase flags ident txn gen base ∧ e.loc = here) ∨
        ∃ ordinal delta value bumps, rec.entry = .bump ordinal ident delta e.gen ∧ e.body = .tally value bumps ∧
          ({ ordinal, loc := here } : BumpLoc) ∈ bumps
    let asks (c : Compaction) (op : RequestOp) : State :=
      { s with compaction := c, array := { s.array with compactionRequest := some op } }
    (barred ∨ s.compaction.action ≠ .awaitCommit ∨ s.restarting ≠ none → exec .compactionWalkResume s = .next s) ∧
    (s.restarting = none → s.compaction.action = .awaitCommit → ¬barred → rec.committed = true →
      (∀ e, s.entryOf ident = some e → current e →
        (ident ∉ s.compaction.folded → e.gen ≤ 4294967293 → exec .compactionWalkResume s = .next
          (asks { s.compaction with folded := s.compaction.folded ++ [ident], action := .fold none } .program)) ∧
        (ident ∉ s.compaction.folded → 4294967293 < e.gen → exec .compactionWalkResume s = .next
          (asks { s.compaction with folded := s.compaction.folded ++ [ident], action := .readCopy } .read)) ∧
        (ident ∈ s.compaction.folded → exec .compactionWalkResume s = .next
          (asks { s.compaction with action := .readCopy } .read))) ∧
      (∀ e, s.entryOf ident = some e → e.loc ≠ here → (∀ flags txn gen base, rec.entry = .tallyBase flags ident txn gen base →
        s.compaction.survey.length = k + 1 → exec .compactionWalkResume s = .next (asks { s.compaction with
          phase := .release, walk := none, action := .release
          victimCounts := raiseCount s.compaction.victimCounts ident 1 } .program))))

/-! ### Supply and restart -/

/-- The supply supervisor: caution begins in NORMAL and starts the caution timer; the recovery timer runs outside NORMAL
while VDD is above 2.80 V, and stops when VDD falls to it. The caution timer's expiry makes CAUTION into CAUTION_LONG, and
SUPPLY is raised, or deferred during MOUNTING; then a commit whose marker has not been granted ends its transaction, and
an increment ends, both answered SUPPLY_LOW, a run they have in programming ending early. The recovery timer's expiry
returns the state to NORMAL, with a SUPPLY notice from CAUTION_LONG, which in MOUNTING takes back the deferred one; a run
in SELECT then makes the clearing test and ends or chooses in that event, unless its open header is in flight (log entry
18). That a stopped timer, and a rise of VDD that stands above already, do nothing is the model's choice (log entry 4),
and so are the fields for the level of VDD and the good supply (log entry 21). -/
def Obligations.SupplySupervision : Prop :=
  ∀ s : State,
    let fallen : Supply := { s.supply with vddAbove := false, recoveryRunning := false, vddGood := false }
    let long : State := { s with supply := { s.supply with state := .cautionLong, cautionRunning := false } }
    let noticed : State := long.raise (.supply .cautionLongBegin)
    let normal : State :=
      { s with supply := { s.supply with state := .normal, cautionRunning := false, recoveryRunning := false } }
    let released (a : ArrayState) (run : Option Run) : ArrayState := { a with
      executorRequest := none
      faulted := a.faulted ++ run.toList.map (fun x => { page := x.page, first := x.first, count := x.words.length })
      table := match run with
        | none => a.table
        | some x => a.table.set x.page
          { a.table.get x.page with used := max (a.table.get x.page).used (x.first + x.words.length) } }
    (s.restarting = none → s.supply.state = .normal → exec .supplyCaution s
      = .next { s with supply := { fallen with state := .caution, cautionRunning := true } }) ∧
    (s.supply.state ≠ .normal → exec .supplyCaution s = .next { s with supply := fallen }) ∧
    (s.restarting = none → s.supply.vddAbove = false → exec .vddAboveRecovery s = .next { s with supply :=
      { s.supply with vddAbove := true, recoveryRunning := decide (s.supply.state ≠ .normal) } }) ∧
    (s.supply.vddAbove = true → exec .vddAboveRecovery s = .next s) ∧
    exec .vddAtOrBelowRecovery s = .next { s with supply := fallen } ∧
    (s.supply.cautionRunning = false → exec .cautionTimerExpiry s = .next s) ∧
    (s.supply.recoveryRunning = false → exec .recoveryTimerExpiry s = .next s) ∧
    (s.restarting = none → s.nothingToTake → s.supply.cautionRunning = true →
      (s.store ≠ .mounting → s.executor.increment = none →
        (∀ c, s.executor.commit = some c → s.txn.state ≠ .committing ∨ c.markerGranted = true) →
        exec .cautionTimerExpiry s = .next noticed) ∧
      (s.store = .mounting → s.executor.commit = none → s.executor.increment = none →
        exec .cautionTimerExpiry s = .next { long with notices := { s.notices with deferred := true } }) ∧
      (∀ r, s.store ≠ .mounting → noticed.finishes r → s.array.inFlight = none →
        (∀ c, s.executor.commit = some c → s.txn.state = .committing → c.markerGranted = false →
          s.executor.increment = none → exec .cautionTimerExpiry s = .next (State.answered { noticed with
            txn := { s.txn with state := .none, number := none, idleRunning := false, staging := [] }
            executor := { s.executor with commit := none }
            array := released s.array c.run } r [0x33])) ∧
        ∀ i, s.executor.increment = some i → s.executor.commit = none →
          exec .cautionTimerExpiry s = .next (State.answered { noticed with
            executor := { s.executor with increment := none }
            array := released s.array i.run } r [0x33]))) ∧
    (s.restarting = none → s.supply.recoveryRunning = true → s.store ≠ .mounting →
      let told : State := if s.supply.state = .cautionLong then normal.raise (.supply .normalAgain) else normal
      let flying : Prop := ∃ flight, s.array.inFlight = some flight ∧ flight.owner = some .compaction
      (s.compaction.phase = .select → flying → exec .recoveryTimerExpiry s = .next told) ∧
      ∀ host automatic victims reclaimed action,
        s.compaction = { Compaction.selecting host automatic victims reclaimed with action } → ¬flying →
        told.selects host automatic victims reclaimed (exec .recoveryTimerExpiry s)) ∧
    (s.restarting = none → s.compaction.phase ≠ .select → s.supply.recoveryRunning = true →
      (s.supply.state = .caution → exec .recoveryTimerExpiry s = .next normal) ∧
      (s.supply.state = .cautionLong → s.store ≠ .mounting →
        exec .recoveryTimerExpiry s = .next (normal.raise (.supply .normalAgain))) ∧
      (s.supply.state = .cautionLong → s.store = .mounting →
        exec .recoveryTimerExpiry s = .next { normal with notices := { s.notices with deferred := false } }))

/-- The restart causes: BROWNOUT and POWER_ON are cold and cut off the operation in flight, a program leaving its cell, a
page switch's cell 1 and an erase its page indeterminate; RESET_LINE is warm and lets it complete. A cause taken while
restarting is the one reported, and the treatment stays cold if any was cold. ALERT_N goes high. That the notices go when
the cause is taken is the model's choice (log entry 20), and so are the fields for the supply and for RESET_N (log entry
21), that a RESET_LINE during a cold restart waits for RESET_N to be high (log entry 35), and that RESET_LINE with RESET_N
high does nothing (log entry 4). -/
def Obligations.RestartCausesAreTaken : Prop :=
  ∀ s : State, s.array.cells.wf = true →
    let spoiled (cells : Memory) (at' : Nat → Prop) : Prop :=
      (∀ a, at' a → cells.read a = .indeterminate) ∧ ∀ a, ¬at' a → cells.read a = s.array.cells.read a
    let cutOff (t : State) : Prop :=
      t.array.inFlight = none ∧ t.notices.queue = [] ∧ t.alertNLow = false ∧
      (s.array.inFlight = none → t.array.cells = s.array.cells) ∧
      (∀ o p c n, s.array.inFlight = some { owner := o, op := .read p c n } → t.array.cells = s.array.cells) ∧
      (∀ o p c w, s.array.inFlight = some { owner := o, op := .program p c w } →
        spoiled t.array.cells (fun a => a = cellAddress p c)) ∧
      (∀ o p w, s.array.inFlight = some { owner := o, op := .openHeader p w } →
        spoiled t.array.cells (fun a => a = cellAddress p 1)) ∧
      ∀ o p n, s.array.inFlight = some { owner := o, op := .erase p n } →
        spoiled t.array.cells (fun a => a / 128 = p.val)
    (∃ t, exec .brownout s = .next t ∧
      t.restarting = some { cause := .brownout, cold := true, needsResetHigh := false } ∧ cutOff t) ∧
    (∃ t, exec .powerOn s = .next t ∧ cutOff t ∧
      (s.supply.resetNHigh = true →
        t.restarting = some { cause := .powerOn, cold := true, needsResetHigh := false }) ∧
      (s.supply.resetNHigh = false →
        t.restarting = some { cause := .resetLine, cold := true, needsResetHigh := true }) ∧
      t.supply.vddAbove = true ∧ t.supply.recoveryRunning = true ∧ t.notices.earlierCauses = [] ∧
      t.notices.startAcknowledged = false ∧ t.notices.currentCause = .powerOn) ∧
    (s.supply.resetNHigh = false → ∃ t, exec .resetLine s = .next t ∧ t.array = s.array ∧ t.notices.queue = [] ∧
      t.alertNLow = false ∧
      (s.restarting = none → t.restarting = some { cause := .resetLine, cold := false, needsResetHigh := true }) ∧
      ∀ r, s.restarting = some r → t.restarting = some { cause := .resetLine, cold := r.cold, needsResetHigh := true }) ∧
    (s.supply.resetNHigh = true → exec .resetLine s = .next s)

/-- A low RESET_N empties the notice queue, whose frames not yet in the transmit queue go unsent, and cuts off the frame
being sent, which after a low that was no restart leaves the transmit queue as though sent: at the rise, in the model.
That the queue is emptied by a short low too is the model's reading (log entry 20). That an edge to the level RESET_N has
already does nothing is the model's choice (log entry 4). -/
def Obligations.ResetNCutsOffTheFrame : Prop :=
  ∀ (f : Frame) (rest : List Frame) (s : State), s.restarting = none →
    (s.supply.resetNHigh = true → exec .resetNFall s = .next { s with
      supply := { s.supply with resetNHigh := false }
      notices := { s.notices with queue := [], outgoing := [] }
      link := { s.link with
        cutOff := !s.link.transmit.isEmpty, waiters := s.link.waiters.filter (fun p => p ≠ .noticeUnit) } }) ∧
    (s.supply.resetNHigh = false → s.link.cutOff = true → s.link.transmit = f :: rest →
      f.kind ≠ 0x85 ∨ f.payload ≠ [0x00] → exec .resetNRise s = .next { s with
        supply := { s.supply with resetNHigh := true }
        link := { s.link with cutOff := false, transmit := rest } }) ∧
    (s.supply.resetNHigh = false → s.link.cutOff = false → exec .resetNRise s = .next { s with
      supply := { s.supply with resetNHigh := true } }) ∧
    (s.supply.resetNHigh = false → exec .resetNFall s = .next s) ∧
    (s.supply.resetNHigh = true → exec .resetNRise s = .next s)

/-- The restart proceeds once the operation in flight has completed, RESET_N is high where it must be, and the supply has
been good where it must be: every block takes its restart values, the array keeps its cells, the earlier causes follow the
treatment, and the mount's first read is requested. The values that the mount sets later stand until then at next
transaction number 1, next sequence number 1 and PENDING_ERASE pages, which is the model's choice (log entry 6), and so is
how the supply condition is kept in fields (log entry 21). That nothing happens before the conditions are met is log entry
4. -/
def Obligations.RestartProceeds : Prop :=
  ∀ (rateHigh : Bool) (r : Restarting) (s : State), s.restarting = some r →
    let causes : List Cause :=
      if r.cold then [] else if s.notices.startAcknowledged then s.notices.earlierCauses
      else
        let all := s.notices.earlierCauses ++ [s.notices.currentCause]
        all.drop (all.length - 4)
    let supplyMet : Prop := (r.cold = false ∧ s.supply.state = .normal) ∨ s.supply.vddGood = true
    (s.array.inFlight = none → (r.needsResetHigh = true → s.supply.resetNHigh = true) → supplyMet →
      exec (.restartProceed rateHigh) s = .next { State.reset with
        pending := s.pending
        link := { State.reset.link with rateHigh }
        array := { State.reset.array with cells := s.array.cells }
        notices := { State.reset.notices with
          report := s.notices.report, earlierCauses := causes, currentCause := r.cause }
        supply := { State.reset.supply with vddAbove := s.supply.vddAbove, resetNHigh := s.supply.resetNHigh }
        freeIndex := s.freeIndex }) ∧
    (s.array.inFlight ≠ none ∨ (r.needsResetHigh = true ∧ s.supply.resetNHigh = false) ∨ ¬supplyMet →
      exec (.restartProceed rateHigh) s = .next s)
end

