-- ==== Sys2Proof/Laws/Payloads.lean ====
section
/-! SUPPORT. The readers of the request payloads answer exactly on the layouts and ranges of the table: one lemma per
reader for a valid payload and one for an invalid payload. -/

namespace Sys2Proof.Machine

variable {p : List Byte}

theorem identInRange_iff {n : Nat} : identInRange n = true ↔ 1 ≤ n ∧ n ≤ 4094 := by simp [identInRange]

theorem numberInRange_iff {n : Nat} : numberInRange n = true ↔ 1 ≤ n ∧ n ≤ 4294967294 := by simp [numberInRange]

theorem beNat_single (b : Byte) : beNat [b] = b.toNat := by simp [beNat]

theorem readEmpty_nil : readEmpty [] = some () := rfl

theorem readEmpty_none (h : p ≠ []) : readEmpty p = none := by
  cases p with
  | nil => exact absurd rfl h
  | cons => rfl

theorem readStatusFlag_none (h : ¬payloadValid .status p) : readStatusFlag p = none := by
  simp only [payloadValid, not_or] at h
  rcases p with _ | ⟨b, _ | ⟨c, t⟩⟩
  · rfl
  · simp_all [readStatusFlag]
  · rfl

theorem readNumber_some (h : p.length = 4 ∧ 1 ≤ beNat (p.take 4) ∧ beNat (p.take 4) ≤ 4294967294) :
    readNumber p = some (beNat p) := by
  rw [List.take_of_length_le (by omega)] at h
  rw [readNumber, if_pos ⟨h.1, numberInRange_iff.2 h.2⟩]

theorem readNumber_none (h : ¬(p.length = 4 ∧ 1 ≤ beNat (p.take 4) ∧ beNat (p.take 4) ≤ 4294967294)) :
    readNumber p = none := by
  rw [readNumber, if_neg]
  rintro ⟨l, n⟩
  exact h ⟨l, by rw [List.take_of_length_le (by omega)]; exact numberInRange_iff.1 n⟩

theorem readNoticeNumber_none (h : ¬payloadValid .ackNotice p) : readNoticeNumber p = none := by
  rcases p with _ | ⟨b, _ | ⟨c, t⟩⟩
  · rfl
  · have z : b = 0 := by
      refine BitVec.eq_of_toNat_eq ?_
      have : ¬1 ≤ b.toNat := fun q => h ⟨rfl, by rwa [beNat_single]⟩
      change b.toNat = 0
      omega
    simp [readNoticeNumber, z]
  · rfl

theorem readIdent_some (h : payloadValid .read p) : readIdent p = some (beNat p) := by
  obtain ⟨l, n⟩ := h
  rw [List.drop_zero, List.take_of_length_le (by omega)] at n
  rw [readIdent, if_pos ⟨l, identInRange_iff.2 n⟩]

theorem readIdent_none (h : ¬payloadValid .read p) : readIdent p = none := by
  rw [readIdent, if_neg]
  rintro ⟨l, n⟩
  exact h ⟨l, by simpa [List.take_of_length_le (show p.length ≤ 2 by omega)] using identInRange_iff.1 n⟩

theorem readListArgs_some (h : payloadValid .list p) :
    readListArgs p = some (beNat (p.take 2), beNat (p.drop 2)) := by
  obtain ⟨l, n, c⟩ := h
  exact if_pos ⟨l, identInRange_iff.2 n, c⟩

theorem readListArgs_none (h : ¬payloadValid .list p) : readListArgs p = none :=
  if_neg (fun q => h ⟨q.1, identInRange_iff.1 q.2.1, q.2.2⟩)

theorem readWearArgs_some (h : payloadValid .wear p) :
    readWearArgs p = some (beNat (p.take 1), beNat (p.drop 1)) := if_pos h

theorem readWearArgs_none (h : ¬payloadValid .wear p) : readWearArgs p = none := if_neg h

theorem readStageWrite_some (h : payloadValid .stageWrite p) :
    readStageWrite p = some (beNat (p.take 4), beNat ((p.drop 4).take 2), p.drop 6) := by
  obtain ⟨a, b, n, i⟩ := h
  rw [readStageWrite, if_pos b]
  exact if_pos ⟨a, numberInRange_iff.2 n, identInRange_iff.2 i⟩

theorem readStageWrite_none (h : ¬payloadValid .stageWrite p) : readStageWrite p = none := by
  rw [readStageWrite]
  split
  · rename_i b
    exact if_neg (fun q => h ⟨q.1, b, numberInRange_iff.1 q.2.1, identInRange_iff.1 q.2.2⟩)
  · rfl

theorem readStageCommon_some (l : 6 ≤ p.length) (n : 1 ≤ beNat (p.take 4) ∧ beNat (p.take 4) ≤ 4294967294)
    (i : 1 ≤ beNat ((p.drop 4).take 2) ∧ beNat ((p.drop 4).take 2) ≤ 4094) :
    readStageCommon p = some (beNat (p.take 4), beNat ((p.drop 4).take 2), p.drop 6) :=
  if_pos ⟨l, numberInRange_iff.2 n, identInRange_iff.2 i⟩

theorem readStageCommon_none
    (h : ¬((1 ≤ beNat (p.take 4) ∧ beNat (p.take 4) ≤ 4294967294) ∧
      1 ≤ beNat ((p.drop 4).take 2) ∧ beNat ((p.drop 4).take 2) ≤ 4094)) : readStageCommon p = none :=
  if_neg (fun q => h ⟨numberInRange_iff.1 q.2.1, identInRange_iff.1 q.2.2⟩)

theorem readStageDelete_some (h : payloadValid .stageDelete p) :
    readStageDelete p = some (beNat (p.take 4), beNat ((p.drop 4).take 2)) := by
  obtain ⟨l, n, i⟩ := h
  rw [readStageDelete, if_pos l, readStageCommon_some (by omega) n i]
  rfl

theorem readStageDelete_none (h : ¬payloadValid .stageDelete p) : readStageDelete p = none := by
  rw [readStageDelete]
  split
  · rename_i l
    rw [readStageCommon_none (fun q => h ⟨l, q⟩)]
    rfl
  · rfl

theorem readStageTally_some (h : payloadValid .stageTally p) :
    readStageTally p = some (beNat (p.take 4), beNat ((p.drop 4).take 2), beNat (p.drop 6)) := by
  obtain ⟨l, n, i⟩ := h
  rw [readStageTally, if_pos l, readStageCommon_some (by omega) n i]
  rfl

theorem readStageTally_none (h : ¬payloadValid .stageTally p) : readStageTally p = none := by
  rw [readStageTally]
  split
  · rename_i l
    rw [readStageCommon_none (fun q => h ⟨l, q⟩)]
    rfl
  · rfl

theorem readIncrement_some (h : payloadValid .increment p) :
    readIncrement p = some (beNat (p.take 2), beNat (p.drop 2)) := by
  obtain ⟨l, n, d⟩ := h
  exact if_pos ⟨l, identInRange_iff.2 n, d⟩

theorem readIncrement_none (h : ¬payloadValid .increment p) : readIncrement p = none :=
  if_neg (fun q => h ⟨q.1, identInRange_iff.1 q.2.1, q.2.2⟩)

theorem readVictims_some (h : payloadValid .compact p) : readVictims p = some (beNat p) := by
  obtain ⟨l, n⟩ := h
  rcases p with _ | ⟨b, _ | ⟨c, t⟩⟩
  · cases l
  · rw [beNat_single] at n ⊢
    exact if_pos n
  · simp at l

theorem readVictims_none (h : ¬payloadValid .compact p) : readVictims p = none := by
  rcases p with _ | ⟨b, _ | ⟨c, t⟩⟩
  · rfl
  · exact if_neg (fun q => h ⟨rfl, by rwa [beNat_single]⟩)
  · rfl

end Sys2Proof.Machine
end

