-- ==== Sys2Proof/Laws/Serving.lean ====
section
/-! SUPPORT. Serving a request: what a good frame does when the handler and the executor are free, and what a reply does
when a place is free. -/

namespace Sys2Proof.Machine

variable {s : State}

/-! ### A place in the transmit queue -/

theorem State.answersNow.listening (h : s.answersNow) : s.listening = true := by
  simp [State.listening, h.1, h.2.1]

theorem State.answersNow.txRoom (h : s.answersNow) : s.txRoom = true := by
  simp [State.txRoom, Config.transmitCapacity, h.2.2.2.2.1, h.2.2.2.2.2]

theorem State.finishes.txRoom {r : Request} (h : s.finishes r) : s.txRoom = true := by
  simp [State.txRoom, Config.transmitCapacity, h.2.2.2.1, h.2.2.2.2]

/-- A frame of the handler that finds a place joins the queue. -/
theorem State.handlerSend_room (h : s.txRoom = true) (f : Frame) : s.handlerSend f = s.withFrame f := by
  simp [State.handlerSend, h, State.placeFrame, State.withFrame]

/-- The handler's answer that finds a place. -/
theorem State.answer_room (h : s.txRoom = true) (f : Frame) (p : List Byte) :
    s.answer f p = s.withFrame { kind := f.kind + 0x80, tag := f.tag, payload := p } := by
  simp [State.answer, replyFrame, State.handlerSend_room h]

/-- The handler's answer, whether or not it finds a place. -/
theorem State.answer_eq (f : Frame) (p : List Byte) :
    s.answer f p = s.handlerAnswered { kind := f.kind + 0x80, tag := f.tag, payload := p } := by
  by_cases h : s.link.transmit.length < 6 ∧ s.link.waiters = []
  · rw [State.handlerAnswered, if_pos h]
    exact State.answer_room (by simp [State.txRoom, h.1, h.2]) f p
  · have room : s.txRoom = false := by
      rw [← Bool.not_eq_true]
      simpa [State.txRoom] using h
    rw [State.handlerAnswered, if_neg h, State.answer, State.handlerSend, room]
    unfold State.beginWait
    by_cases k : Producer.handler ∈ s.link.waiters <;> simp [k, replyFrame]

/-- The executor's reply that finds a place. -/
theorem State.reply_room {r : Request} (h : s.executor.executing = some r) (room : s.txRoom = true) (p : List Byte) :
    s.reply p = s.answered r p := by
  have k : ∀ t, State.txRoom { s with link := { s.link with replay := t } } = s.txRoom := fun _ => rfl
  cases m : isMutating r.kind <;>
    simp [State.reply, h, m, k, room, State.placeFrame, State.answered, State.replied, replyFrame, replayEntryOf]

/-- A reply just after a request began to execute leaves the executor as it stood before. -/
theorem State.answered_taken {r : Request} (h : s.executor.executing = none) (p : List Byte) :
    State.answered { s with executor := { s.executor with executing := some r } } r p
      = s.replied r.kind r.tag r.payload p := by
  obtain ⟨_, _, e, _, _, _, _, _, _, _, _, _, _, _⟩ := s
  obtain ⟨_, _, _, _, _, _⟩ := e
  cases h
  rfl

/-! ### The executor -/

theorem State.executorFree_eq_false (h : s.nothingToTake) (q : s.link.queue ≠ []) : s.executorFree = false := by
  rcases h with h | h | h | h
  · simp [State.executorFree, Option.isNone_iff_eq_none, h]
  · simp [State.executorFree, State.mounted, h]
  · simp [State.executorFree, State.mounted, h]
  · exact absurd h q

theorem takeRequests_nothing (h : s.nothingToTake) (n : Nat) : takeRequests n s = s := by
  cases n with
  | zero => rfl
  | succ n =>
    by_cases q : s.link.queue = []
    · simp [takeRequests, q]
    · simp [takeRequests, State.executorFree_eq_false h q]

/-- An executor with nothing to take takes nothing. -/
theorem State.runExecutor_nothing (h : s.nothingToTake) : s.runExecutor = s := takeRequests_nothing h _

theorem State.nothingToTake_queue (h : s.link.queue = []) : s.nothingToTake := Or.inr (Or.inr (Or.inr h))

/-! ### A good frame -/

theorem State.takeHeld_none (h : s.link.held = none) : s.takeHeld = s := by
  unfold State.takeHeld
  rw [h]
  simp

theorem State.answersNow.takesNow (h : s.answersNow) : s.takesNow := ⟨h.1, h.2.1, h.2.2.1, h.2.2.2.1⟩

/-- A request whose frame the handler takes at once. -/
theorem State.hostSends_taken (h : s.takesNow) (kind : RequestKind) (tag : Byte) (payload : List Byte) :
    s.hostSends kind tag payload = (s.handle { kind := requestCode kind, tag, payload }).runExecutor := by
  have l : s.listening = true := by simp [State.listening, h.1, h.2.1]
  simp [State.hostSends, l, State.deliver, State.takeHeld_none h.2.2.2, State.handlerFree, h.2.2.1]

theorem State.hostSends_now (h : s.answersNow) (kind : RequestKind) (tag : Byte) (payload : List Byte) :
    s.hostSends kind tag payload = (s.handle { kind := requestCode kind, tag, payload }).runExecutor :=
  State.hostSends_taken h.takesNow kind tag payload

theorem requestKindOf_code (kind : RequestKind) : requestKindOf (requestCode kind) = some kind := by
  cases kind <;> rfl

theorem State.handle_queued {kind : RequestKind} (k : isImmediate kind = false) (tag : Byte) (payload : List Byte) :
    s.handle { kind := requestCode kind, tag, payload }
      = s.handleQueued kind { kind := requestCode kind, tag, payload } := by
  unfold State.handle
  rw [requestKindOf_code]
  cases kind <;> simp_all [isImmediate]

/-- An immediate request's answer that finds a place, with nothing for the executor to take. -/
theorem State.runExecutor_withFrame (h : s.nothingToTake) (f : Frame) : (s.withFrame f).runExecutor = s.withFrame f :=
  State.runExecutor_nothing h

/-- A queued request that is executed in the event in which its frame completes (R150, R151). -/
theorem State.hostSends_queued {kind : RequestKind} (k : isImmediate kind = false) {tag : Byte} {payload : List Byte}
    (h : s.executesNow kind tag payload) :
    s.hostSends kind tag payload
      = State.execute { s with executor := { s.executor with executing := some { kind, tag, payload } } }
          { kind, tag, payload } := by
  obtain ⟨h, st, ex, q, rp⟩ := h
  rw [State.hostSends_now h, State.handle_queued k]
  have m : s.mounted = true := by simpa [State.mounted] using st
  have a : s.tagInUse tag = false := by simp [State.tagInUse, q, ex]
  have b : s.handleQueued kind { kind := requestCode kind, tag, payload }
      = { s with link := { s.link with queue := [{ kind, tag, payload }] } } := by
    simp [State.handleQueued, m, a, rp, q, Config.requestQueueCapacity]
  have c : ({ s.link with queue := [] } : Link) = s.link := by rw [← q]
  have e : State.executorFree { s with link := { s.link with queue := [{ kind, tag, payload }] } } = true := by
    simp only [State.executorFree, ex, h.1, Option.isNone_none, Bool.and_true]
    exact m
  rw [b]
  simp [State.runExecutor, takeRequests, State.take, e, c]

/-! ### A frame that has been sent -/

theorem isRestartReply_iff (f : Frame) : isRestartReply f = true ↔ f.kind = 0x85 ∧ f.payload = [0x00] :=
  decide_eq_true_iff

theorem isRestartReply_eq_false {f : Frame} (h : f.kind ≠ 0x85 ∨ f.payload ≠ [0x00]) : isRestartReply f = false := by
  rw [← Bool.not_eq_true, isRestartReply_iff]
  rintro ⟨k, r⟩
  exact h.elim (fun q => q k) (fun q => q r)

/-! ### The commands of requests -/

theorem exec_commandOf (kind : RequestKind) (tag : Byte) (payload : List Byte) (s : State) :
    exec (commandOf kind tag payload) s = .next (s.hostSends kind tag payload) := by cases kind <;> rfl

/-- A request the handler settles at once, leaving nothing for the executor to take. -/
theorem exec_handled (h : s.takesNow) {kind : RequestKind} {tag : Byte} {payload : List Byte} {t : State}
    (e : s.handle { kind := requestCode kind, tag, payload } = t) (nothing : t.nothingToTake) :
    exec (commandOf kind tag payload) s = .next t := by
  rw [exec_commandOf, State.hostSends_taken h, e, State.runExecutor_nothing nothing]

/-- s with a request executing. -/
def State.executingNow (s : State) (kind : RequestKind) (tag : Byte) (payload : List Byte) : State :=
  { s with executor := { s.executor with executing := some { kind, tag, payload } } }

/-- A queued request that is executed at once. -/
theorem exec_executed {kind : RequestKind} (k : isImmediate kind = false) {tag : Byte} {payload : List Byte}
    (h : s.executesNow kind tag payload) :
    exec (commandOf kind tag payload) s
      = .next ((s.executingNow kind tag payload).execute { kind, tag, payload }) := by
  rw [exec_commandOf, State.hostSends_queued k h]
  rfl

/-- The reply to a request that has just begun to execute. -/
theorem State.reply_executingNow {kind : RequestKind} {tag : Byte} {payload : List Byte}
    (h : s.executesNow kind tag payload) (reply : List Byte) :
    (s.executingNow kind tag payload).reply reply = s.replied kind tag payload reply :=
  (State.reply_room (s := s.executingNow kind tag payload) (r := { kind, tag, payload }) rfl
    (State.answersNow.txRoom (s := s) h.1) reply).trans (State.answered_taken h.2.2.1 reply)

/-! ### Raising a notice -/

/-- A notice raised while the queue has to be empty takes its number alone. -/
theorem raise_muted {s : State} (content : NoticeContent) (h : s.muted = true) :
    s.raise content = { s with notices := { s.notices with nextNumber := nextNoticeNumber s.notices.nextNumber } } :=
  if_pos h

theorem raise_unmuted {s : State} (content : NoticeContent) (h : s.muted = false) : s.raise content = s.joinNotice content :=
  if_neg (Bool.eq_false_iff.1 h)

theorem muted_eq_false {s : State} (high : s.supply.resetNHigh = true) (warm : ∀ r, s.restarting = some r → r.cold = false) :
    s.muted = false := by
  unfold State.muted mutedBy
  cases k : s.restarting with
  | none => simp [high]
  | some r => simp [high, warm r k]

end Sys2Proof.Machine
end

