-- ==== Sys2Proof/Laws/Admission.lean ====
section
/-! SUPPORT. Admission of commits and increments: the tests spelled as the statements spell them, and what each outcome
leaves. -/

namespace Sys2Proof.Machine

theorem State.placementOpens_eq (s : State) (n : Nat) : s.placementOpens n = s.opens n := by
  simp only [State.placementOpens, State.opens, State.fits, Bool.and_eq_true, decide_eq_true_eq,
    Option.isSome_iff_ne_none]

theorem State.spaceAdmits_iff (s : State) (n : Nat) : s.spaceAdmits n = true ↔ s.opens n + 2 ≤ s.erasedCount := by
  rw [← State.placementOpens_eq]
  exact decide_eq_true_iff

theorem State.mustWait_iff (s : State) : s.mustWait = true ↔ s.compaction.victim ≠ none ∧ s.erasedCount < 2 := by
  simp only [State.mustWait, Bool.and_eq_true, decide_eq_true_eq, Option.isSome_iff_ne_none]

theorem commitNeed_eq (ops : List StagedOp) : commitNeed ops = cellsNeeded ops := by
  unfold commitNeed
  induction ops with
  | nil => rfl
  | cons o t ih => cases o <;> simp [cellsNeeded, opCells, ← ih, blobCells] <;> omega

theorem stagedBytes_eq (ops : List StagedOp) : dataBytes ops = stagedBytes ops := by
  induction ops with
  | nil => rfl
  | cons o t ih => cases o <;> simp_all [dataBytes, stagedBytes, opBytes]

/-- With a run in progress, setting the demand does nothing else. -/
theorem State.setDemand_running (s : State) (h : s.compaction.phase ≠ .idle) :
    s.setDemand = { s with compaction := { s.compaction with automaticDemand := true } } :=
  if_neg (fun q => h q.1)

section
variable {s : State} {c : CommitRecord}

theorem State.admitCommit_admitted (room : s.newIdents ≤ 512 - s.directory.length)
    (space : s.opens (cellsNeeded s.txn.staging) + 2 ≤ s.erasedCount) :
    s.admitCommit c = (s.setCommit (some { c with stage := if s.txn.staging.isEmpty then .marking else .programming })).request
      .executor (some .program) := by
  rw [← commitNeed_eq] at space
  rw [State.admitCommit, if_neg (Nat.not_lt.2 room), if_pos ((s.spaceAdmits_iff _).2 space)]

theorem State.admitCommit_noRoom (room : ¬s.newIdents ≤ 512 - s.directory.length) :
    s.admitCommit c = (s.refuseCommit .directoryFull).setDemand := if_pos (Nat.not_le.1 room)

theorem State.admitCommit_noSpace (room : s.newIdents ≤ 512 - s.directory.length)
    (space : ¬s.opens (cellsNeeded s.txn.staging) + 2 ≤ s.erasedCount) :
    s.admitCommit c = (s.refuseCommit .storeFull).setDemand := by
  rw [← commitNeed_eq] at space
  rw [State.admitCommit, if_neg (Nat.not_lt.2 room), if_neg (fun q => space ((s.spaceAdmits_iff _).1 q))]

variable {r : Request} (hr : s.executor.executing = some r) (room : s.txRoom = true)
include hr room

/-- A commit refused with its reply placed. -/
theorem State.refuseCommit_room (x : Result) :
    s.refuseCommit x = State.answered { s with
      txn := { s.txn with state := .opened, idleRunning := true }
      executor := { s.executor with commit := none }
      array := { s.array with executorRequest := none } } r (bare x) :=
  State.reply_room (s := { s with
      txn := { s.txn with state := .opened, idleRunning := true }
      executor := { s.executor with commit := none }
      array := { s.array with executorRequest := none } }) hr room _

/-- An increment with no run in programming that ends with its reply placed. -/
theorem State.failIncrement_room {i : IncrementRecord} (none : i.run = none) (x : Result) :
    s.failIncrement i x = State.answered { s with
      executor := { s.executor with increment := .none }
      array := { s.array with executorRequest := .none } } r (bare x) := by
  rw [State.failIncrement, none]
  exact State.reply_room (s := { s with
      executor := { s.executor with increment := .none }
      array := { s.array with executorRequest := .none } }) hr room _

end

theorem State.admitIncrement_admitted {s : State} {i : IncrementRecord} (space : s.opens i.need + 2 ≤ s.erasedCount) :
    s.admitIncrement i = (s.setIncrement (some { i with waiting := false })).request .executor (some .program) :=
  if_pos ((s.spaceAdmits_iff _).2 space)

theorem State.admitIncrement_noSpace {s : State} {i : IncrementRecord} (space : ¬s.opens i.need + 2 ≤ s.erasedCount) :
    s.admitIncrement i = (s.failIncrement i .storeFull).setDemand :=
  if_neg (fun q => space ((s.spaceAdmits_iff _).1 q))

end Sys2Proof.Machine
end

