-- ==== Sys2Proof/Laws/Choosing.lean ====
section
/-! SUPPORT. What the engine does in the event in which it enters SELECT, chooses, or takes a demand (R105 to R108), in the
vocabulary of the statements. -/

namespace Sys2Proof.Machine

/-! ### Notices leave the engine alone -/

/-- A notice that joins the queue leaves its frame to be sent, from a state whose array, executor and engine are as before. -/
theorem joinNotice_sends (s : State) (content : NoticeContent) : ∃ (t : State) (f : Frame),
    (t.array = s.array ∧ t.compaction = s.compaction ∧ t.executor = s.executor) ∧
      ∀ c ask, (s.withEngine c ask).joinNotice content = (t.withEngine c ask).sendNotice f := by
  let kept := if s.notices.queue.length < Config.noticeCapacity then s.notices.queue else s.notices.queue.drop 1
  let lost := if s.notices.queue.length < Config.noticeCapacity then 0
    else match s.notices.queue with
      | [] => 0
      | oldest :: _ => min (oldest.lost + 1) 255
  let n : Notice := { number := s.notices.nextNumber, lost, content }
  let u : NoticeUnit := { s.notices with queue := kept ++ [n], nextNumber := nextNoticeNumber s.notices.nextNumber }
  exact ⟨State.dropUnsent { s with notices := u } kept, noticeFrame n, ⟨rfl, rfl, rfl⟩, fun _ _ => rfl⟩

/-- A frame of a notice is sent or waits whatever the engine is. -/
theorem sendNotice_withEngine (s : State) (c : Compaction) (ask : Option RequestOp) (f : Frame) :
    (s.withEngine c ask).sendNotice f = (s.sendNotice f).withEngine c ask := by
  have room : (s.withEngine c ask).txRoom = s.txRoom := rfl
  unfold State.sendNotice
  rw [room]
  cases h : s.txRoom && s.notices.outgoing.isEmpty <;> simp [State.withEngine, State.placeFrame, h]

theorem withEngine_self (s : State) : s.withEngine s.compaction s.array.compactionRequest = s := rfl

/-- A notice is raised whatever the engine is, and leaves it as it is. -/
theorem raise_withEngine (s : State) (c : Compaction) (ask : Option RequestOp) (content : NoticeContent) :
    (s.withEngine c ask).raise content = (s.raise content).withEngine c ask := by
  cases h : s.muted
  · rw [raise_unmuted content h, raise_unmuted (s := s.withEngine c ask) content h]
    obtain ⟨t, f, same, e⟩ := joinNotice_sends s content
    have self := e s.compaction s.array.compactionRequest
    rw [withEngine_self, sendNotice_withEngine] at self
    rw [e, self, sendNotice_withEngine]
    rfl
  · rw [raise_muted content h, raise_muted (s := s.withEngine c ask) content h]
    rfl

/-- A notice changes neither the array nor the executor nor the engine. -/
theorem raise_engine (s : State) (content : NoticeContent) :
    (s.raise content).array = s.array ∧ (s.raise content).compaction = s.compaction ∧
      (s.raise content).executor = s.executor := by
  cases h : s.muted
  · rw [raise_unmuted content h]
    obtain ⟨t, f, same, e⟩ := joinNotice_sends s content
    have self := e s.compaction s.array.compactionRequest
    rw [withEngine_self] at self
    rw [self]
    unfold State.sendNotice
    split <;> exact ⟨by
      change ({ t.array with compactionRequest := s.array.compactionRequest } : ArrayState) = s.array
      rw [same.1], rfl, same.2.2⟩
  · rw [raise_muted content h]
    exact ⟨rfl, rfl, rfl⟩

theorem raise_erasedCount (s : State) (content : NoticeContent) : (s.raise content).erasedCount = s.erasedCount := by
  unfold State.erasedCount State.countIn State.pagesIn State.page
  rw [(raise_engine s content).1]

/-! ### The end of a run, the choice, and the entry into SELECT -/

/-- A run that ends with no demand left leaves the engine as a restart does (R119). -/
theorem endRun_eq_runOver (s : State) (victims reclaimed : Nat) (h : s.compaction.hostDemand = 0 ∧
    s.compaction.automaticDemand = false ∧ s.compaction.runVictims = victims ∧ s.compaction.runReclaimed = reclaimed) :
    s.endRun = s.runOver victims reclaimed := by
  obtain ⟨h1, h2, rfl, rfl⟩ := h
  have e : ({ s.compaction.noVictim with phase := .idle, runVictims := 0, runReclaimed := 0 } : Compaction)
      = Compaction.idle := by simp [Compaction.noVictim, Compaction.idle, h1, h2]
  unfold State.endRun
  simp only [e]
  rfl

/-- What the engine was does not matter to what it chooses. -/
theorem chooses_withEngine (s : State) (c d : Compaction) (ask : Option RequestOp)
    (outcome : Host.Outcome State Fault Refusal) : (s.withEngine c ask).chooses d outcome ↔ s.chooses d outcome := by
  have low : (if s.erasedCount ≤ 2 then (s.withEngine c ask).raise (.spaceLow s.erasedCount) else s.withEngine c ask).runOver
        d.runVictims d.runReclaimed
      = (if s.erasedCount ≤ 2 then s.raise (.spaceLow s.erasedCount) else s).runOver d.runVictims d.runReclaimed := by
    rw [raise_withEngine]
    split <;> rfl
  unfold State.chooses
  refine and_congr Iff.rfl (and_congr Iff.rfl (imp_congr_right fun _ => imp_congr_right fun _ => ?_))
  rw [← low]
  exact Iff.rfl

/-- Nor to what it does as it enters SELECT. -/
theorem selects_withEngine (s : State) (c : Compaction) (ask : Option RequestOp) (host : Nat) (automatic : Bool)
    (victims reclaimed : Nat) (outcome : Host.Outcome State Fault Refusal) :
    (s.withEngine c ask).selects host automatic victims reclaimed outcome ↔ s.selects host automatic victims reclaimed outcome :=
  and_congr Iff.rfl (imp_congr_right fun _ => and_congr Iff.rfl (imp_congr_right fun _ => chooses_withEngine s c _ ask outcome))

/-- The engine in SELECT chooses as R108 says. -/
theorem choose_chooses (s : State) (host : Nat) (automatic : Bool) (victims reclaimed : Nat)
    (h : s = s.withEngine (Compaction.selecting host automatic victims reclaimed) none) :
    s.chooses (Compaction.selecting host automatic victims reclaimed) (.next s.choose) := by
  have hc : s.compaction = Compaction.selecting host automatic victims reclaimed := by rw [h]; rfl
  refine ⟨fun v hv => ?_, fun q hv hq hs => ?_, fun hv hq => ?_⟩
  · unfold State.choose State.takeVictim
    rw [hv]
    simp only [State.setPage, hc]
    rfl
  · unfold State.choose State.sealable
    rw [hv, hq]
    have hn : s.runOn q = false := by
      unfold State.runOn
      cases hr : s.executorRun with
      | none => rfl
      | some r => simpa using hs.2.2 r hr
    have hd : (1 ≤ deadCells (s.page q) ∧ 2 ≤ s.erasedCount) := ⟨hs.1, hs.2.1⟩
    simp only [hd, hn, hc]
    rfl
  · have hn : s.sealable = false := by
      unfold State.sealable
      cases ho : s.openPage with
      | none => rfl
      | some q =>
        by_cases hr : s.runOn q = true
        · simp [hr]
        · have := hq q ho
          simp only [not_and, not_forall] at this
          simp only [Bool.and_eq_false_imp, decide_eq_true_eq, Bool.not_eq_eq_eq_not, Bool.not_false]
          intro hd
          obtain ⟨r, e, hp⟩ := this hd.1 hd.2
          unfold State.runOn
          rw [e]
          simpa using hp
    unfold State.choose
    rw [hv, hn]
    have hw : s.clearDemands = s.withEngine (Compaction.selecting 0 false victims reclaimed) none := by
      rw [h]
      rfl
    simp only [Bool.false_eq_true, if_false]
    rw [endRun_eq_runOver _ victims reclaimed]
    · congr 1
      rw [hw]
      split
      · rw [raise_withEngine]
        rfl
      · rfl
    · have hf : ∀ t : State, t.compaction = Compaction.selecting 0 false victims reclaimed →
          t.compaction.hostDemand = 0 ∧ t.compaction.automaticDemand = false ∧ t.compaction.runVictims = victims ∧
            t.compaction.runReclaimed = reclaimed := by
        intro t e
        rw [e]
        exact ⟨rfl, rfl, rfl, rfl⟩
      refine hf _ ?_
      split
      · rw [(raise_engine _ _).2.1, hw]
        rfl
      · rw [hw]
        rfl

/-- The tombstone count, spelled (R10). -/
theorem tombstoneCount_eq (s : State) :
    s.tombstoneCount = (s.directory.filter (fun e => e.body = .tombstone)).length := by
  have each : isTombstone = fun e => decide (e.body = .tombstone) := by
    funext e
    unfold isTombstone
    cases e.body <;> rfl
  unfold State.tombstoneCount
  rw [each]

/-- The clearing test of R105 on an engine in SELECT. -/
theorem clearingTest_selecting (s : State) (host : Nat) (automatic : Bool) (victims reclaimed : Nat) :
    (s.withEngine (Compaction.selecting host automatic victims reclaimed) none).clearingTest
      = s.withEngine (Compaction.selecting host
        (automatic && !decide (6 ≤ s.erasedCount ∧ (s.directory.filter (fun e => e.body = .tombstone)).length ≤ 64))
        victims reclaimed) none := by
  unfold State.clearingTest
  rw [tombstoneCount_eq]
  by_cases h : 6 ≤ s.erasedCount ∧ (s.directory.filter (fun e => e.body = .tombstone)).length ≤ 64
  · rw [if_pos (by exact h), decide_eq_true h, Bool.not_true, Bool.and_false]
    rfl
  · rw [if_neg (by exact h), decide_eq_false h, Bool.not_false, Bool.and_true]

/-- The engine enters SELECT with the demands and counts it has (R107). -/
theorem enterSelect_selects (s : State) : s.selects s.compaction.hostDemand s.compaction.automaticDemand
    s.compaction.runVictims s.compaction.runReclaimed (.next s.enterSelect) := by
  have entered : s.enterSelect = (s.withEngine (Compaction.selecting s.compaction.hostDemand s.compaction.automaticDemand
      s.compaction.runVictims s.compaction.runReclaimed) none).select := rfl
  rw [entered]
  generalize s.compaction.hostDemand = host
  generalize s.compaction.automaticDemand = automatic
  generalize s.compaction.runVictims = victims
  generalize s.compaction.runReclaimed = reclaimed
  unfold State.select
  rw [clearingTest_selecting]
  unfold State.selects
  generalize (automatic && !decide (6 ≤ s.erasedCount ∧
    (s.directory.filter (fun e => e.body = .tombstone)).length ≤ 64)) = kept
  have demanded : (s.withEngine (Compaction.selecting host kept victims reclaimed) none).demanded
      = (kept || decide (0 < host)) := rfl
  refine ⟨fun h k => ?_, fun d => ?_⟩
  · subst h k
    simp only [demanded, Bool.false_or]
    exact congrArg Host.Outcome.next (endRun_eq_runOver _ victims reclaimed ⟨rfl, rfl, rfl, rfl⟩)
  · have on : (kept || decide (0 < host)) = true := by
      rcases d with d | d
      · simp [d]
      · simp [d]
    simp only [demanded, on, if_true]
    have supply : (s.withEngine (Compaction.selecting host kept victims reclaimed) none).supply = s.supply := rfl
    rw [supply]
    refine ⟨fun h => ?_, fun h => ?_⟩
    · cases e : s.supply.state
      · exact absurd e h
      · rfl
      · rfl
    · rw [h]
      change s.chooses _ (.next (State.choose _))
      exact (chooses_withEngine s _ _ none _).1
        (choose_chooses (s.withEngine (Compaction.selecting host kept victims reclaimed) none) host kept victims reclaimed rfl)

/-- The automatic demand is set (R105). -/
theorem setDemand_demands (s : State) : s.demands (.next s.setDemand) := by
  refine ⟨fun h => ?_, fun h ready => ?_⟩
  · unfold State.setDemand State.beginRun
    rw [if_neg]
    rintro ⟨a, b, _⟩
    exact h.elim (fun f => f a) (fun f => f b)
  · have begun : s.setDemand
        = State.enterSelect { s with compaction := { s.compaction with automaticDemand := true } } := by
      unfold State.setDemand State.beginRun
      rw [if_pos]
      exact ⟨by rw [h]; rfl, ready, rfl⟩
    rw [begun]
    have all := enterSelect_selects { s with compaction := { s.compaction with automaticDemand := true } }
    have e : ({ s.compaction with automaticDemand := true } : Compaction)
        = { Compaction.idle with automaticDemand := true } := by rw [h]
    rw [e] at all ⊢
    exact (selects_withEngine s _ s.array.compactionRequest _ _ _ _ _).1 all

end Sys2Proof.Machine
end

