-- ==== Sys2Proof/Laws/State.lean ====
section
/-! SUPPORT. One lemma per update of State: what each field is after it. -/

namespace Sys2Proof.Machine

@[simp] theorem State.setPage_fields (s : State) (p : PageIx) (r : PageRec) :
    (s.setPage p r).pending = s.pending ∧
    (s.setPage p r).link = s.link ∧
    (s.setPage p r).executor = s.executor ∧
    (s.setPage p r).txn = s.txn ∧
    (s.setPage p r).directory = s.directory ∧
    (s.setPage p r).carry = s.carry ∧
    (s.setPage p r).compaction = s.compaction ∧
    (s.setPage p r).store = s.store ∧
    (s.setPage p r).mount = s.mount ∧
    (s.setPage p r).notices = s.notices ∧
    (s.setPage p r).supply = s.supply ∧
    (s.setPage p r).restarting = s.restarting ∧
    (s.setPage p r).freeIndex = s.freeIndex ∧
    (s.setPage p r).array.cells = s.array.cells ∧
    (s.setPage p r).array.appendPoint = s.array.appendPoint ∧
    (s.setPage p r).array.nextSequence = s.array.nextSequence ∧
    (s.setPage p r).array.faulted = s.array.faulted ∧
    (s.setPage p r).array.inFlight = s.array.inFlight ∧
    (s.setPage p r).array.executorRequest = s.array.executorRequest ∧
    (s.setPage p r).array.compactionRequest = s.array.compactionRequest ∧
    (s.setPage p r).array.mountRequest = s.array.mountRequest ∧
    (s.setPage p r).array.table = s.array.table.set p r := by
  and_intros <;> rfl

@[simp] theorem State.addLive_fields (s : State) (p : PageIx) (n : Nat) :
    (s.addLive p n).pending = s.pending ∧
    (s.addLive p n).link = s.link ∧
    (s.addLive p n).executor = s.executor ∧
    (s.addLive p n).txn = s.txn ∧
    (s.addLive p n).directory = s.directory ∧
    (s.addLive p n).carry = s.carry ∧
    (s.addLive p n).compaction = s.compaction ∧
    (s.addLive p n).store = s.store ∧
    (s.addLive p n).mount = s.mount ∧
    (s.addLive p n).notices = s.notices ∧
    (s.addLive p n).supply = s.supply ∧
    (s.addLive p n).restarting = s.restarting ∧
    (s.addLive p n).freeIndex = s.freeIndex ∧
    (s.addLive p n).array.cells = s.array.cells ∧
    (s.addLive p n).array.appendPoint = s.array.appendPoint ∧
    (s.addLive p n).array.nextSequence = s.array.nextSequence ∧
    (s.addLive p n).array.faulted = s.array.faulted ∧
    (s.addLive p n).array.inFlight = s.array.inFlight ∧
    (s.addLive p n).array.executorRequest = s.array.executorRequest ∧
    (s.addLive p n).array.compactionRequest = s.array.compactionRequest ∧
    (s.addLive p n).array.mountRequest = s.array.mountRequest := by
  and_intros <;> rfl

@[simp] theorem State.subLive_fields (s : State) (p : PageIx) (n : Nat) :
    (s.subLive p n).pending = s.pending ∧
    (s.subLive p n).link = s.link ∧
    (s.subLive p n).executor = s.executor ∧
    (s.subLive p n).txn = s.txn ∧
    (s.subLive p n).directory = s.directory ∧
    (s.subLive p n).carry = s.carry ∧
    (s.subLive p n).compaction = s.compaction ∧
    (s.subLive p n).store = s.store ∧
    (s.subLive p n).mount = s.mount ∧
    (s.subLive p n).notices = s.notices ∧
    (s.subLive p n).supply = s.supply ∧
    (s.subLive p n).restarting = s.restarting ∧
    (s.subLive p n).freeIndex = s.freeIndex ∧
    (s.subLive p n).array.cells = s.array.cells ∧
    (s.subLive p n).array.appendPoint = s.array.appendPoint ∧
    (s.subLive p n).array.nextSequence = s.array.nextSequence ∧
    (s.subLive p n).array.faulted = s.array.faulted ∧
    (s.subLive p n).array.inFlight = s.array.inFlight ∧
    (s.subLive p n).array.executorRequest = s.array.executorRequest ∧
    (s.subLive p n).array.compactionRequest = s.array.compactionRequest ∧
    (s.subLive p n).array.mountRequest = s.array.mountRequest := by
  and_intros <;> rfl

@[simp] theorem State.raiseUsed_fields (s : State) (p : PageIx) (n : Nat) :
    (s.raiseUsed p n).pending = s.pending ∧
    (s.raiseUsed p n).link = s.link ∧
    (s.raiseUsed p n).executor = s.executor ∧
    (s.raiseUsed p n).txn = s.txn ∧
    (s.raiseUsed p n).directory = s.directory ∧
    (s.raiseUsed p n).carry = s.carry ∧
    (s.raiseUsed p n).compaction = s.compaction ∧
    (s.raiseUsed p n).store = s.store ∧
    (s.raiseUsed p n).mount = s.mount ∧
    (s.raiseUsed p n).notices = s.notices ∧
    (s.raiseUsed p n).supply = s.supply ∧
    (s.raiseUsed p n).restarting = s.restarting ∧
    (s.raiseUsed p n).freeIndex = s.freeIndex ∧
    (s.raiseUsed p n).array.cells = s.array.cells ∧
    (s.raiseUsed p n).array.appendPoint = s.array.appendPoint ∧
    (s.raiseUsed p n).array.nextSequence = s.array.nextSequence ∧
    (s.raiseUsed p n).array.faulted = s.array.faulted ∧
    (s.raiseUsed p n).array.inFlight = s.array.inFlight ∧
    (s.raiseUsed p n).array.executorRequest = s.array.executorRequest ∧
    (s.raiseUsed p n).array.compactionRequest = s.array.compactionRequest ∧
    (s.raiseUsed p n).array.mountRequest = s.array.mountRequest := by
  and_intros <;> rfl

@[simp] theorem State.faultRun_fields (s : State) (r : Run) :
    (s.faultRun r).pending = s.pending ∧
    (s.faultRun r).link = s.link ∧
    (s.faultRun r).executor = s.executor ∧
    (s.faultRun r).txn = s.txn ∧
    (s.faultRun r).directory = s.directory ∧
    (s.faultRun r).carry = s.carry ∧
    (s.faultRun r).compaction = s.compaction ∧
    (s.faultRun r).store = s.store ∧
    (s.faultRun r).mount = s.mount ∧
    (s.faultRun r).notices = s.notices ∧
    (s.faultRun r).supply = s.supply ∧
    (s.faultRun r).restarting = s.restarting ∧
    (s.faultRun r).freeIndex = s.freeIndex ∧
    (s.faultRun r).array.cells = s.array.cells ∧
    (s.faultRun r).array.appendPoint = s.array.appendPoint ∧
    (s.faultRun r).array.nextSequence = s.array.nextSequence ∧
    (s.faultRun r).array.inFlight = s.array.inFlight ∧
    (s.faultRun r).array.executorRequest = s.array.executorRequest ∧
    (s.faultRun r).array.compactionRequest = s.array.compactionRequest ∧
    (s.faultRun r).array.mountRequest = s.array.mountRequest ∧
    (s.faultRun r).array.faulted = s.array.faulted ++ [{ page := r.page, first := r.first, count := r.words.length }] := by
  and_intros <;> rfl

@[simp] theorem State.request_fields (s : State) (who : Requester) (op : Option RequestOp) :
    (s.request who op).pending = s.pending ∧
    (s.request who op).link = s.link ∧
    (s.request who op).executor = s.executor ∧
    (s.request who op).txn = s.txn ∧
    (s.request who op).directory = s.directory ∧
    (s.request who op).carry = s.carry ∧
    (s.request who op).compaction = s.compaction ∧
    (s.request who op).store = s.store ∧
    (s.request who op).mount = s.mount ∧
    (s.request who op).notices = s.notices ∧
    (s.request who op).supply = s.supply ∧
    (s.request who op).restarting = s.restarting ∧
    (s.request who op).freeIndex = s.freeIndex ∧
    (s.request who op).array.cells = s.array.cells ∧
    (s.request who op).array.table = s.array.table ∧
    (s.request who op).array.appendPoint = s.array.appendPoint ∧
    (s.request who op).array.nextSequence = s.array.nextSequence ∧
    (s.request who op).array.faulted = s.array.faulted ∧
    (s.request who op).array.inFlight = s.array.inFlight := by cases who <;> and_intros <;> rfl

@[simp] theorem State.start_fields (s : State) (who : Requester) (op : ArrayOp) :
    (s.start who op).pending = s.pending ∧
    (s.start who op).link = s.link ∧
    (s.start who op).executor = s.executor ∧
    (s.start who op).txn = s.txn ∧
    (s.start who op).directory = s.directory ∧
    (s.start who op).carry = s.carry ∧
    (s.start who op).compaction = s.compaction ∧
    (s.start who op).store = s.store ∧
    (s.start who op).mount = s.mount ∧
    (s.start who op).notices = s.notices ∧
    (s.start who op).supply = s.supply ∧
    (s.start who op).restarting = s.restarting ∧
    (s.start who op).freeIndex = s.freeIndex ∧
    (s.start who op).array.cells = s.array.cells ∧
    (s.start who op).array.table = s.array.table ∧
    (s.start who op).array.appendPoint = s.array.appendPoint ∧
    (s.start who op).array.nextSequence = s.array.nextSequence ∧
    (s.start who op).array.faulted = s.array.faulted ∧
    (s.start who op).array.executorRequest = s.array.executorRequest ∧
    (s.start who op).array.compactionRequest = s.array.compactionRequest ∧
    (s.start who op).array.mountRequest = s.array.mountRequest ∧
    (s.start who op).array.inFlight = some { owner := some who, op } := by
  and_intros <;> rfl

@[simp] theorem State.landed_fields (s : State) :
    (s.landed).pending = s.pending ∧
    (s.landed).link = s.link ∧
    (s.landed).executor = s.executor ∧
    (s.landed).txn = s.txn ∧
    (s.landed).directory = s.directory ∧
    (s.landed).carry = s.carry ∧
    (s.landed).compaction = s.compaction ∧
    (s.landed).store = s.store ∧
    (s.landed).mount = s.mount ∧
    (s.landed).notices = s.notices ∧
    (s.landed).supply = s.supply ∧
    (s.landed).restarting = s.restarting ∧
    (s.landed).freeIndex = s.freeIndex ∧
    (s.landed).array.cells = s.array.cells ∧
    (s.landed).array.table = s.array.table ∧
    (s.landed).array.appendPoint = s.array.appendPoint ∧
    (s.landed).array.nextSequence = s.array.nextSequence ∧
    (s.landed).array.faulted = s.array.faulted ∧
    (s.landed).array.executorRequest = s.array.executorRequest ∧
    (s.landed).array.compactionRequest = s.array.compactionRequest ∧
    (s.landed).array.mountRequest = s.array.mountRequest ∧
    (s.landed).array.inFlight = none := by
  and_intros <;> rfl

@[simp] theorem State.landCell_fields (s : State) (p : PageIx) (c : Nat) (w : CellWord) (o : ArrayOutcome) :
    (s.landCell p c w o).pending = s.pending ∧
    (s.landCell p c w o).link = s.link ∧
    (s.landCell p c w o).executor = s.executor ∧
    (s.landCell p c w o).txn = s.txn ∧
    (s.landCell p c w o).directory = s.directory ∧
    (s.landCell p c w o).carry = s.carry ∧
    (s.landCell p c w o).compaction = s.compaction ∧
    (s.landCell p c w o).store = s.store ∧
    (s.landCell p c w o).mount = s.mount ∧
    (s.landCell p c w o).notices = s.notices ∧
    (s.landCell p c w o).supply = s.supply ∧
    (s.landCell p c w o).restarting = s.restarting ∧
    (s.landCell p c w o).freeIndex = s.freeIndex ∧
    (s.landCell p c w o).array.table = s.array.table ∧
    (s.landCell p c w o).array.appendPoint = s.array.appendPoint ∧
    (s.landCell p c w o).array.nextSequence = s.array.nextSequence ∧
    (s.landCell p c w o).array.faulted = s.array.faulted ∧
    (s.landCell p c w o).array.inFlight = s.array.inFlight ∧
    (s.landCell p c w o).array.executorRequest = s.array.executorRequest ∧
    (s.landCell p c w o).array.compactionRequest = s.array.compactionRequest ∧
    (s.landCell p c w o).array.mountRequest = s.array.mountRequest ∧
    (s.landCell p c w o).array.cells = s.array.cells.write (cellAddress p c) (landedContent w o) := by
  and_intros <;> rfl

@[simp] theorem State.landErase_fields (s : State) (p : PageIx) (n : Nat) (o : ArrayOutcome) :
    (s.landErase p n o).pending = s.pending ∧
    (s.landErase p n o).link = s.link ∧
    (s.landErase p n o).executor = s.executor ∧
    (s.landErase p n o).txn = s.txn ∧
    (s.landErase p n o).directory = s.directory ∧
    (s.landErase p n o).carry = s.carry ∧
    (s.landErase p n o).compaction = s.compaction ∧
    (s.landErase p n o).store = s.store ∧
    (s.landErase p n o).mount = s.mount ∧
    (s.landErase p n o).notices = s.notices ∧
    (s.landErase p n o).supply = s.supply ∧
    (s.landErase p n o).restarting = s.restarting ∧
    (s.landErase p n o).freeIndex = s.freeIndex ∧
    (s.landErase p n o).array.table = s.array.table ∧
    (s.landErase p n o).array.appendPoint = s.array.appendPoint ∧
    (s.landErase p n o).array.nextSequence = s.array.nextSequence ∧
    (s.landErase p n o).array.faulted = s.array.faulted ∧
    (s.landErase p n o).array.inFlight = s.array.inFlight ∧
    (s.landErase p n o).array.executorRequest = s.array.executorRequest ∧
    (s.landErase p n o).array.compactionRequest = s.array.compactionRequest ∧
    (s.landErase p n o).array.mountRequest = s.array.mountRequest := by
  and_intros <;> rfl

@[simp] theorem State.placeFrame_fields (s : State) (f : Frame) :
    (s.placeFrame f).pending = s.pending ∧
    (s.placeFrame f).executor = s.executor ∧
    (s.placeFrame f).txn = s.txn ∧
    (s.placeFrame f).directory = s.directory ∧
    (s.placeFrame f).carry = s.carry ∧
    (s.placeFrame f).array = s.array ∧
    (s.placeFrame f).compaction = s.compaction ∧
    (s.placeFrame f).store = s.store ∧
    (s.placeFrame f).mount = s.mount ∧
    (s.placeFrame f).notices = s.notices ∧
    (s.placeFrame f).supply = s.supply ∧
    (s.placeFrame f).restarting = s.restarting ∧
    (s.placeFrame f).freeIndex = s.freeIndex ∧
    (s.placeFrame f).link.rateHigh = s.link.rateHigh ∧
    (s.placeFrame f).link.rx = s.link.rx ∧
    (s.placeFrame f).link.received = s.link.received ∧
    (s.placeFrame f).link.byteGapRunning = s.link.byteGapRunning ∧
    (s.placeFrame f).link.held = s.link.held ∧
    (s.placeFrame f).link.discarded = s.link.discarded ∧
    (s.placeFrame f).link.handlerReply = s.link.handlerReply ∧
    (s.placeFrame f).link.queue = s.link.queue ∧
    (s.placeFrame f).link.replay = s.link.replay ∧
    (s.placeFrame f).link.cutOff = s.link.cutOff ∧
    (s.placeFrame f).link.waiters = s.link.waiters ∧
    (s.placeFrame f).link.transmit = s.link.transmit ++ [f] := by
  and_intros <;> rfl

@[simp] theorem State.beginWait_fields (s : State) (p : Producer) :
    (s.beginWait p).pending = s.pending ∧
    (s.beginWait p).executor = s.executor ∧
    (s.beginWait p).txn = s.txn ∧
    (s.beginWait p).directory = s.directory ∧
    (s.beginWait p).carry = s.carry ∧
    (s.beginWait p).array = s.array ∧
    (s.beginWait p).compaction = s.compaction ∧
    (s.beginWait p).store = s.store ∧
    (s.beginWait p).mount = s.mount ∧
    (s.beginWait p).notices = s.notices ∧
    (s.beginWait p).supply = s.supply ∧
    (s.beginWait p).restarting = s.restarting ∧
    (s.beginWait p).freeIndex = s.freeIndex ∧
    (s.beginWait p).link.rateHigh = s.link.rateHigh ∧
    (s.beginWait p).link.rx = s.link.rx ∧
    (s.beginWait p).link.received = s.link.received ∧
    (s.beginWait p).link.byteGapRunning = s.link.byteGapRunning ∧
    (s.beginWait p).link.held = s.link.held ∧
    (s.beginWait p).link.discarded = s.link.discarded ∧
    (s.beginWait p).link.handlerReply = s.link.handlerReply ∧
    (s.beginWait p).link.queue = s.link.queue ∧
    (s.beginWait p).link.replay = s.link.replay ∧
    (s.beginWait p).link.transmit = s.link.transmit ∧
    (s.beginWait p).link.cutOff = s.link.cutOff := by
  unfold State.beginWait
  split <;> and_intros <;> rfl

@[simp] theorem State.hunt_fields (s : State) :
    (s.hunt).pending = s.pending ∧
    (s.hunt).executor = s.executor ∧
    (s.hunt).txn = s.txn ∧
    (s.hunt).directory = s.directory ∧
    (s.hunt).carry = s.carry ∧
    (s.hunt).array = s.array ∧
    (s.hunt).compaction = s.compaction ∧
    (s.hunt).store = s.store ∧
    (s.hunt).mount = s.mount ∧
    (s.hunt).notices = s.notices ∧
    (s.hunt).supply = s.supply ∧
    (s.hunt).restarting = s.restarting ∧
    (s.hunt).freeIndex = s.freeIndex ∧
    (s.hunt).link.rateHigh = s.link.rateHigh ∧
    (s.hunt).link.held = s.link.held ∧
    (s.hunt).link.discarded = s.link.discarded ∧
    (s.hunt).link.handlerReply = s.link.handlerReply ∧
    (s.hunt).link.queue = s.link.queue ∧
    (s.hunt).link.replay = s.link.replay ∧
    (s.hunt).link.transmit = s.link.transmit ∧
    (s.hunt).link.cutOff = s.link.cutOff ∧
    (s.hunt).link.waiters = s.link.waiters ∧
    (s.hunt).link.rx = .hunt ∧
    (s.hunt).link.received = [] ∧
    (s.hunt).link.byteGapRunning = false := by
  and_intros <;> rfl

@[simp] theorem State.keep_fields (s : State) (rx : RxState) (v : Byte) :
    (s.keep rx v).pending = s.pending ∧
    (s.keep rx v).executor = s.executor ∧
    (s.keep rx v).txn = s.txn ∧
    (s.keep rx v).directory = s.directory ∧
    (s.keep rx v).carry = s.carry ∧
    (s.keep rx v).array = s.array ∧
    (s.keep rx v).compaction = s.compaction ∧
    (s.keep rx v).store = s.store ∧
    (s.keep rx v).mount = s.mount ∧
    (s.keep rx v).notices = s.notices ∧
    (s.keep rx v).supply = s.supply ∧
    (s.keep rx v).restarting = s.restarting ∧
    (s.keep rx v).freeIndex = s.freeIndex ∧
    (s.keep rx v).link.rateHigh = s.link.rateHigh ∧
    (s.keep rx v).link.held = s.link.held ∧
    (s.keep rx v).link.discarded = s.link.discarded ∧
    (s.keep rx v).link.handlerReply = s.link.handlerReply ∧
    (s.keep rx v).link.queue = s.link.queue ∧
    (s.keep rx v).link.replay = s.link.replay ∧
    (s.keep rx v).link.transmit = s.link.transmit ∧
    (s.keep rx v).link.cutOff = s.link.cutOff ∧
    (s.keep rx v).link.waiters = s.link.waiters ∧
    (s.keep rx v).link.rx = rx ∧
    (s.keep rx v).link.received = s.link.received ++ [v] ∧
    (s.keep rx v).link.byteGapRunning = true := by
  and_intros <;> rfl

@[simp] theorem State.countDiscard_fields (s : State) :
    (s.countDiscard).pending = s.pending ∧
    (s.countDiscard).executor = s.executor ∧
    (s.countDiscard).txn = s.txn ∧
    (s.countDiscard).directory = s.directory ∧
    (s.countDiscard).carry = s.carry ∧
    (s.countDiscard).array = s.array ∧
    (s.countDiscard).compaction = s.compaction ∧
    (s.countDiscard).store = s.store ∧
    (s.countDiscard).mount = s.mount ∧
    (s.countDiscard).notices = s.notices ∧
    (s.countDiscard).supply = s.supply ∧
    (s.countDiscard).restarting = s.restarting ∧
    (s.countDiscard).freeIndex = s.freeIndex ∧
    (s.countDiscard).link.rateHigh = s.link.rateHigh ∧
    (s.countDiscard).link.rx = s.link.rx ∧
    (s.countDiscard).link.received = s.link.received ∧
    (s.countDiscard).link.byteGapRunning = s.link.byteGapRunning ∧
    (s.countDiscard).link.held = s.link.held ∧
    (s.countDiscard).link.handlerReply = s.link.handlerReply ∧
    (s.countDiscard).link.queue = s.link.queue ∧
    (s.countDiscard).link.replay = s.link.replay ∧
    (s.countDiscard).link.transmit = s.link.transmit ∧
    (s.countDiscard).link.cutOff = s.link.cutOff ∧
    (s.countDiscard).link.waiters = s.link.waiters ∧
    (s.countDiscard).link.discarded = min (s.link.discarded + 1) 65535 := by
  and_intros <;> rfl

@[simp] theorem State.setCommit_fields (s : State) (c : Option CommitRecord) :
    (s.setCommit c).pending = s.pending ∧
    (s.setCommit c).link = s.link ∧
    (s.setCommit c).txn = s.txn ∧
    (s.setCommit c).directory = s.directory ∧
    (s.setCommit c).carry = s.carry ∧
    (s.setCommit c).array = s.array ∧
    (s.setCommit c).compaction = s.compaction ∧
    (s.setCommit c).store = s.store ∧
    (s.setCommit c).mount = s.mount ∧
    (s.setCommit c).notices = s.notices ∧
    (s.setCommit c).supply = s.supply ∧
    (s.setCommit c).restarting = s.restarting ∧
    (s.setCommit c).freeIndex = s.freeIndex ∧
    (s.setCommit c).executor.executing = s.executor.executing ∧
    (s.setCommit c).executor.reply = s.executor.reply ∧
    (s.setCommit c).executor.blobRead = s.executor.blobRead ∧
    (s.setCommit c).executor.increment = s.executor.increment ∧
    (s.setCommit c).executor.format = s.executor.format ∧
    (s.setCommit c).executor.commit = c := by
  and_intros <;> rfl

@[simp] theorem State.setIncrement_fields (s : State) (i : Option IncrementRecord) :
    (s.setIncrement i).pending = s.pending ∧
    (s.setIncrement i).link = s.link ∧
    (s.setIncrement i).txn = s.txn ∧
    (s.setIncrement i).directory = s.directory ∧
    (s.setIncrement i).carry = s.carry ∧
    (s.setIncrement i).array = s.array ∧
    (s.setIncrement i).compaction = s.compaction ∧
    (s.setIncrement i).store = s.store ∧
    (s.setIncrement i).mount = s.mount ∧
    (s.setIncrement i).notices = s.notices ∧
    (s.setIncrement i).supply = s.supply ∧
    (s.setIncrement i).restarting = s.restarting ∧
    (s.setIncrement i).freeIndex = s.freeIndex ∧
    (s.setIncrement i).executor.executing = s.executor.executing ∧
    (s.setIncrement i).executor.reply = s.executor.reply ∧
    (s.setIncrement i).executor.blobRead = s.executor.blobRead ∧
    (s.setIncrement i).executor.commit = s.executor.commit ∧
    (s.setIncrement i).executor.format = s.executor.format ∧
    (s.setIncrement i).executor.increment = i := by
  and_intros <;> rfl

@[simp] theorem State.setFormat_fields (s : State) (f : Option FormatRecord) :
    (s.setFormat f).pending = s.pending ∧
    (s.setFormat f).link = s.link ∧
    (s.setFormat f).txn = s.txn ∧
    (s.setFormat f).directory = s.directory ∧
    (s.setFormat f).carry = s.carry ∧
    (s.setFormat f).array = s.array ∧
    (s.setFormat f).compaction = s.compaction ∧
    (s.setFormat f).store = s.store ∧
    (s.setFormat f).mount = s.mount ∧
    (s.setFormat f).notices = s.notices ∧
    (s.setFormat f).supply = s.supply ∧
    (s.setFormat f).restarting = s.restarting ∧
    (s.setFormat f).freeIndex = s.freeIndex ∧
    (s.setFormat f).executor.executing = s.executor.executing ∧
    (s.setFormat f).executor.reply = s.executor.reply ∧
    (s.setFormat f).executor.blobRead = s.executor.blobRead ∧
    (s.setFormat f).executor.commit = s.executor.commit ∧
    (s.setFormat f).executor.increment = s.executor.increment ∧
    (s.setFormat f).executor.format = f := by
  and_intros <;> rfl

@[simp] theorem State.setMount_fields (s : State) (m : Option MountRecord) :
    (s.setMount m).pending = s.pending ∧
    (s.setMount m).link = s.link ∧
    (s.setMount m).executor = s.executor ∧
    (s.setMount m).txn = s.txn ∧
    (s.setMount m).directory = s.directory ∧
    (s.setMount m).carry = s.carry ∧
    (s.setMount m).array = s.array ∧
    (s.setMount m).compaction = s.compaction ∧
    (s.setMount m).store = s.store ∧
    (s.setMount m).notices = s.notices ∧
    (s.setMount m).supply = s.supply ∧
    (s.setMount m).restarting = s.restarting ∧
    (s.setMount m).freeIndex = s.freeIndex ∧
    (s.setMount m).mount = m := by
  and_intros <;> rfl

@[simp] theorem State.putEntry_fields (s : State) (e : DirEntry) :
    (s.putEntry e).pending = s.pending ∧
    (s.putEntry e).link = s.link ∧
    (s.putEntry e).executor = s.executor ∧
    (s.putEntry e).txn = s.txn ∧
    (s.putEntry e).carry = s.carry ∧
    (s.putEntry e).array = s.array ∧
    (s.putEntry e).compaction = s.compaction ∧
    (s.putEntry e).store = s.store ∧
    (s.putEntry e).mount = s.mount ∧
    (s.putEntry e).notices = s.notices ∧
    (s.putEntry e).supply = s.supply ∧
    (s.putEntry e).restarting = s.restarting ∧
    (s.putEntry e).freeIndex = s.freeIndex ∧
    (s.putEntry e).directory = Machine.putEntry s.directory e := by
  and_intros <;> rfl

@[simp] theorem State.addStale_fields (s : State) (ident : Nat) (n : Nat) :
    (s.addStale ident n).pending = s.pending ∧
    (s.addStale ident n).link = s.link ∧
    (s.addStale ident n).executor = s.executor ∧
    (s.addStale ident n).txn = s.txn ∧
    (s.addStale ident n).carry = s.carry ∧
    (s.addStale ident n).array = s.array ∧
    (s.addStale ident n).compaction = s.compaction ∧
    (s.addStale ident n).store = s.store ∧
    (s.addStale ident n).mount = s.mount ∧
    (s.addStale ident n).notices = s.notices ∧
    (s.addStale ident n).supply = s.supply ∧
    (s.addStale ident n).restarting = s.restarting ∧
    (s.addStale ident n).freeIndex = s.freeIndex := by
  and_intros <;> rfl

@[simp] theorem State.endTxn_fields (s : State) :
    (s.endTxn).pending = s.pending ∧
    (s.endTxn).link = s.link ∧
    (s.endTxn).executor = s.executor ∧
    (s.endTxn).directory = s.directory ∧
    (s.endTxn).carry = s.carry ∧
    (s.endTxn).array = s.array ∧
    (s.endTxn).compaction = s.compaction ∧
    (s.endTxn).store = s.store ∧
    (s.endTxn).mount = s.mount ∧
    (s.endTxn).notices = s.notices ∧
    (s.endTxn).supply = s.supply ∧
    (s.endTxn).restarting = s.restarting ∧
    (s.endTxn).freeIndex = s.freeIndex ∧
    (s.endTxn).txn.state = .none ∧
    (s.endTxn).txn.number = none ∧
    (s.endTxn).txn.idleRunning = false ∧
    (s.endTxn).txn.staging = [] ∧
    (s.endTxn).txn.nextNumber = s.txn.nextNumber := by
  and_intros <;> rfl

@[simp] theorem State.clearDemands_fields (s : State) :
    (s.clearDemands).pending = s.pending ∧
    (s.clearDemands).link = s.link ∧
    (s.clearDemands).executor = s.executor ∧
    (s.clearDemands).txn = s.txn ∧
    (s.clearDemands).directory = s.directory ∧
    (s.clearDemands).carry = s.carry ∧
    (s.clearDemands).array = s.array ∧
    (s.clearDemands).store = s.store ∧
    (s.clearDemands).mount = s.mount ∧
    (s.clearDemands).notices = s.notices ∧
    (s.clearDemands).supply = s.supply ∧
    (s.clearDemands).restarting = s.restarting ∧
    (s.clearDemands).freeIndex = s.freeIndex ∧
    (s.clearDemands).compaction.hostDemand = 0 ∧
    (s.clearDemands).compaction.automaticDemand = false ∧
    (s.clearDemands).compaction.phase = s.compaction.phase ∧
    (s.clearDemands).compaction.victim = s.compaction.victim := by
  and_intros <;> rfl

@[simp] theorem State.vddFalls_fields (s : State) :
    (s.vddFalls).pending = s.pending ∧
    (s.vddFalls).link = s.link ∧
    (s.vddFalls).executor = s.executor ∧
    (s.vddFalls).txn = s.txn ∧
    (s.vddFalls).directory = s.directory ∧
    (s.vddFalls).carry = s.carry ∧
    (s.vddFalls).array = s.array ∧
    (s.vddFalls).compaction = s.compaction ∧
    (s.vddFalls).store = s.store ∧
    (s.vddFalls).mount = s.mount ∧
    (s.vddFalls).notices = s.notices ∧
    (s.vddFalls).restarting = s.restarting ∧
    (s.vddFalls).freeIndex = s.freeIndex ∧
    (s.vddFalls).supply.vddAbove = false ∧
    (s.vddFalls).supply.recoveryRunning = false ∧
    (s.vddFalls).supply.vddGood = false ∧
    (s.vddFalls).supply.state = s.supply.state ∧
    (s.vddFalls).supply.cautionRunning = s.supply.cautionRunning ∧
    (s.vddFalls).supply.resetNHigh = s.supply.resetNHigh := by
  and_intros <;> rfl

end Sys2Proof.Machine
end

