-- ==== Sys2Proof/Laws/Memory.lean ====
section
/-! SUPPORT. The array's cells: what a read gives after each operation, and that every operation keeps the canonical
form. -/

namespace Sys2Proof.Machine

theorem Memory.wf_cons {a : Nat} {c : CellContent} {m : Memory} :
    Memory.wf ((a, c) :: m) = true ↔ c ≠ blankContent ∧ (∀ x ∈ m, a < x.1) ∧ m.wf = true := by
  simp only [Memory.wf, Bool.and_eq_true, decide_eq_true_eq, List.all_eq_true]
  tauto

/-- A cell listed nowhere reads blank. -/
theorem Memory.read_of_all_ne {m : Memory} {a : Nat} (h : ∀ x ∈ m, x.1 ≠ a) : m.read a = blankContent := by
  induction m with
  | nil => rfl
  | cons x m ih =>
    obtain ⟨b, c⟩ := x
    rw [Memory.read, if_neg (fun e => h (b, c) List.mem_cons_self e.symm)]
    exact ih fun y hy => h y (List.mem_cons_of_mem _ hy)

theorem Memory.write_above {m : Memory} {a b : Nat} {c : CellContent} (hb : b < a) (h : ∀ x ∈ m, b < x.1) :
    ∀ x ∈ m.write a c, b < x.1 := by
  induction m with
  | nil =>
    rw [Memory.write]
    split <;> simp [hb]
  | cons y m ih =>
    obtain ⟨d, e⟩ := y
    have hd := h (d, e) List.mem_cons_self
    have hm : ∀ x ∈ m, b < x.1 := fun x hx => h x (List.mem_cons_of_mem _ hx)
    rw [Memory.write]
    split
    · split
      · exact h
      · simpa [hb] using h
    · split
      · split
        · exact hm
        · simpa [hb] using hm
      · exact List.forall_mem_cons.2 ⟨hd, ih hm⟩

/-- A write keeps the canonical form. -/
theorem Memory.write_wf {m : Memory} {a : Nat} {c : CellContent} (h : m.wf = true) : (m.write a c).wf = true := by
  induction m with
  | nil =>
    rw [Memory.write]
    split
    · rfl
    · exact Memory.wf_cons.2 ⟨by assumption, by simp, rfl⟩
  | cons y m ih =>
    obtain ⟨b, d⟩ := y
    obtain ⟨hd, hlt, hm⟩ := Memory.wf_cons.1 h
    rw [Memory.write]
    split
    · rename_i hab
      split
      · exact h
      · refine Memory.wf_cons.2 ⟨by assumption, ?_, h⟩
        simpa [hab] using fun x y hx => Nat.lt_trans hab (hlt (x, y) hx)
    · split
      · subst_vars
        split
        · exact hm
        · exact Memory.wf_cons.2 ⟨by assumption, hlt, hm⟩
      · exact Memory.wf_cons.2 ⟨hd, Memory.write_above (by omega) hlt, ih hm⟩

/-- What a write leaves: the cell written holds the content, every other cell what it held. -/
theorem Memory.read_write {m : Memory} {a b : Nat} {c : CellContent} (h : m.wf = true) :
    (m.write a c).read b = if b = a then c else m.read b := by
  induction m with
  | nil =>
    rw [Memory.write]
    split
    · subst_vars; simp [Memory.read]
    · simp [Memory.read]
  | cons y m ih =>
    obtain ⟨d, e⟩ := y
    obtain ⟨-, hlt, hm⟩ := Memory.wf_cons.1 h
    have above : ∀ k, k ≤ d → ∀ x ∈ m, x.1 ≠ k := fun k hk x hx e => by have := hlt x hx; omega
    rw [Memory.write]
    split
    · rename_i had
      split
      · subst_vars
        by_cases hb : b = a
        · subst hb
          simp [Memory.read, Nat.ne_of_lt had, Memory.read_of_all_ne (above b (by omega))]
        · simp [hb]
      · rfl
    · split
      · subst_vars
        split
        · subst_vars
          by_cases hb : b = d
          · subst hb; simp [Memory.read_of_all_ne (above b le_rfl)]
          · simp [Memory.read, hb]
        · by_cases hb : b = d <;> simp [Memory.read, hb]
      · have := ih hm
        by_cases hb : b = a
        · subst hb; simp_all [Memory.read]
        · simp_all [Memory.read]

/-- Filtering the list keeps the canonical form. -/
theorem Memory.filter_wf {m : Memory} {p : Nat × CellContent → Bool} (h : m.wf = true) :
    Memory.wf (m.filter p) = true := by
  induction m with
  | nil => rfl
  | cons y m ih =>
    obtain ⟨b, d⟩ := y
    obtain ⟨hd, hlt, hm⟩ := Memory.wf_cons.1 h
    rw [List.filter_cons]
    split
    · exact Memory.wf_cons.2 ⟨hd, fun x hx => hlt x (List.mem_of_mem_filter hx), ih hm⟩
    · exact ih hm

/-- Clearing a page keeps the canonical form. -/
theorem Memory.clearPage_wf {m : Memory} {p : PageIx} (h : m.wf = true) : (m.clearPage p).wf = true :=
  Memory.filter_wf h

/-- What clearing a page leaves: its cells blank, every other cell what it held. -/
theorem Memory.read_clearPage {m : Memory} {p : PageIx} {a : Nat} :
    (m.clearPage p).read a = if a / 128 = p.val then blankContent else m.read a := by
  unfold Memory.clearPage
  induction m with
  | nil => simp [Memory.read]
  | cons y m ih =>
    obtain ⟨b, d⟩ := y
    rw [List.filter_cons]
    by_cases hb : b / 128 = p.val <;> by_cases hab : a = b <;> simp_all [Memory.read]

/-- Spoiling a page keeps the canonical form. -/
theorem Memory.spoilPage_wf {m : Memory} {p : PageIx} (h : m.wf = true) : (m.spoilPage p).wf = true := by
  unfold Memory.spoilPage
  generalize List.range 128 = cs
  induction cs generalizing m with
  | nil => exact h
  | cons c cs ih => exact ih (Memory.write_wf h)

/-- What spoiling a page leaves: its cells indeterminate, every other cell what it held. -/
theorem Memory.read_spoilPage {m : Memory} {p : PageIx} {a : Nat} (h : m.wf = true) :
    (m.spoilPage p).read a = if a / 128 = p.val then .indeterminate else m.read a := by
  have key : ∀ (cs : List Nat) (m : Memory), m.wf = true →
      (cs.foldl (fun (acc : Memory) c => acc.write (cellAddress p c) .indeterminate) m).read a
        = if (∃ c ∈ cs, a = cellAddress p c) then .indeterminate else m.read a := by
    intro cs
    induction cs with
    | nil => simp
    | cons c cs ih =>
      intro m hm
      rw [List.foldl_cons, ih _ (Memory.write_wf hm), Memory.read_write hm]
      by_cases h1 : ∃ c ∈ cs, a = cellAddress p c <;> by_cases h2 : a = cellAddress p c <;> simp_all
  rw [Memory.spoilPage, key _ _ h]
  congr 1
  simp only [List.mem_range, cellAddress, eq_iff_iff]
  constructor
  · rintro ⟨c, hc, rfl⟩; omega
  · intro e; exact ⟨a % 128, by omega, by omega⟩

end Sys2Proof.Machine
end

