-- ==== Sys2Proof/Laws/Steady.lean ====
section
/-! SUPPORT. Steady: what every operation of the model keeps, one lemma per operation, which the proofs about steps cite. Here:
the operations of Machine/Ops.lean; the others' stand in SteadyStore.lean, SteadyMount.lean and SteadyLink.lean. -/

namespace Sys2Proof.Machine

/-- From s₀ to s the queue of commands and the array's cells stand, and each other part of State.sound that held still
holds. -/
structure Steady (s₀ s : State) : Prop where
  pending : s.pending = s₀.pending
  cells : s.array.cells = s₀.array.cells
  directory : directorySorted s₀.directory ∧ mountSorted s₀.mount → directorySorted s.directory ∧ mountSorted s.mount
  link : s₀.link.bounded → s.link.bounded
  notices : s₀.notices.kept s₀.muted → s.notices.kept s.muted
  txn : s₀.txn.tidy → s.txn.tidy

/-- Steady by its parts. -/
structure SteadyParts (s₀ : State) (q : List Instr) (m : Memory) (d : List DirEntry) (l : Link) (u : NoticeUnit)
    (x : Txn) (n : Option MountRecord) (b : Bool) : Prop where
  pending : q = s₀.pending
  cells : m = s₀.array.cells
  directory : directorySorted s₀.directory ∧ mountSorted s₀.mount → directorySorted d ∧ mountSorted n
  link : s₀.link.bounded → l.bounded
  notices : s₀.notices.kept s₀.muted → u.kept b
  txn : s₀.txn.tidy → x.tidy

theorem Steady.refl (s : State) : Steady s s := ⟨rfl, rfl, id, id, id, id⟩

theorem Steady.trans {a b c : State} (h : Steady a b) (k : Steady b c) : Steady a c :=
  ⟨k.pending.trans h.pending, k.cells.trans h.cells, k.directory ∘ h.directory, k.link ∘ h.link, k.notices ∘ h.notices,
    k.txn ∘ h.txn⟩

/-- Steady keeps State.sound. -/
theorem Steady.sound {a b : State} (h : Steady a b) (k : a.sound) : b.sound :=
  have d := h.directory ⟨k.2.1, k.2.2.2.2.2⟩
  ⟨h.cells ▸ k.1, d.1, h.link k.2.2.1, h.notices k.2.2.2.1, h.txn k.2.2.2.2.1, d.2⟩

@[simp] theorem steady_parts {s₀ s : State} :
    SteadyParts s₀ s.pending s.array.cells s.directory s.link s.notices s.txn s.mount
      (mutedBy s.supply.resetNHigh s.restarting) ↔ Steady s₀ s :=
  ⟨fun ⟨a, b, c, d, e, f⟩ => ⟨a, b, c, d, e, f⟩, fun ⟨a, b, c, d, e, f⟩ => ⟨a, b, c, d, e, f⟩⟩

/-- An update of the other parts keeps Steady. -/

@[simp] theorem steady_mk {s₀ : State} {q l e x d c a k st m n sup r f} :
    Steady s₀ (State.mk q l e x d c a k st m n sup r f) ↔
      SteadyParts s₀ q a.cells d l n x m (mutedBy sup.resetNHigh r) :=
  ⟨fun ⟨a, b, c, d, e, f⟩ => ⟨a, b, c, d, e, f⟩, fun ⟨a, b, c, d, e, f⟩ => ⟨a, b, c, d, e, f⟩⟩

section
variable {s₀ s : State} (h : Steady s₀ s)
include h

theorem Steady.withDirectory {d : List DirEntry} (k : directorySorted s.directory → directorySorted d) :
    SteadyParts s₀ s.pending s.array.cells d s.link s.notices s.txn s.mount
      (mutedBy s.supply.resetNHigh s.restarting) :=
  ⟨h.pending, h.cells, fun q => ⟨k (h.directory q).1, (h.directory q).2⟩, h.link, h.notices, h.txn⟩

theorem Steady.withLink {l : Link} (k : s.link.bounded → l.bounded) :
    SteadyParts s₀ s.pending s.array.cells s.directory l s.notices s.txn s.mount
      (mutedBy s.supply.resetNHigh s.restarting) :=
  ⟨h.pending, h.cells, h.directory, k ∘ h.link, h.notices, h.txn⟩

theorem Steady.withNotices {u : NoticeUnit} (k : s.notices.kept s.muted → u.kept s.muted) :
    SteadyParts s₀ s.pending s.array.cells s.directory s.link u s.txn s.mount
      (mutedBy s.supply.resetNHigh s.restarting) :=
  ⟨h.pending, h.cells, h.directory, h.link, k ∘ h.notices, h.txn⟩

theorem Steady.withTxn {x : Txn} (k : s.txn.tidy → x.tidy) :
    SteadyParts s₀ s.pending s.array.cells s.directory s.link s.notices x s.mount
      (mutedBy s.supply.resetNHigh s.restarting) :=
  ⟨h.pending, h.cells, h.directory, h.link, h.notices, k ∘ h.txn⟩

theorem Steady.withMount {n : Option MountRecord} (k : mountSorted s.mount → mountSorted n) :
    SteadyParts s₀ s.pending s.array.cells s.directory s.link s.notices s.txn n
      (mutedBy s.supply.resetNHigh s.restarting) :=
  ⟨h.pending, h.cells, fun q => ⟨(h.directory q).1, k (h.directory q).2⟩, h.link, h.notices, h.txn⟩

end

/-! ### Sorted directories -/

theorem directorySorted_nil : directorySorted [] := List.Pairwise.nil

theorem directorySorted_map {d : List DirEntry} {f : DirEntry → DirEntry} (hf : ∀ e, (f e).ident = e.ident)
    (h : directorySorted d) : directorySorted (d.map f) := by
  simpa only [directorySorted, List.map_map, Function.comp_def, hf] using h

theorem directorySorted_filter {d : List DirEntry} {p : DirEntry → Bool} (h : directorySorted d) :
    directorySorted (d.filter p) := h.sublist (List.filter_sublist.map _)

theorem putEntry_above {d : List DirEntry} {e : DirEntry} {b : Nat} (hb : b < e.ident) (h : ∀ x ∈ d, b < x.ident) :
    ∀ x ∈ putEntry d e, b < x.ident := by
  induction d with
  | nil => simpa [putEntry] using hb
  | cons f d ih =>
    obtain ⟨hf, hd⟩ := List.forall_mem_cons.1 h
    rw [putEntry]
    split
    · simpa [hb, hf] using hd
    · split
      · simpa [hb] using hd
      · exact List.forall_mem_cons.2 ⟨hf, ih hd⟩

/-- Placing an entry keeps the order. -/
theorem putEntry_sorted {d : List DirEntry} {e : DirEntry} (h : directorySorted d) : directorySorted (putEntry d e) := by
  simp only [directorySorted, List.pairwise_map] at h ⊢
  induction d with
  | nil => simp [putEntry]
  | cons f d ih =>
    obtain ⟨hf, hd⟩ := List.pairwise_cons.1 h
    rw [putEntry]
    split
    · refine List.pairwise_cons.2 ⟨List.forall_mem_cons.2 ⟨by assumption, fun x hx => ?_⟩, h⟩
      exact Nat.lt_trans (by assumption) (hf x hx)
    · split
      · rename_i he
        exact List.pairwise_cons.2 ⟨fun x hx => he ▸ hf x hx, hd⟩
      · exact List.pairwise_cons.2 ⟨putEntry_above (by omega) hf, ih hd⟩

/-! ### The link, the notice unit and the transaction context -/

theorem replayInsert_bounded {t : List ReplayEntry} {e : ReplayEntry}
    (h : t.length ≤ 8 ∧ (t.map ReplayEntry.tag).Nodup) :
    (replayInsert t e).length ≤ 8 ∧ ((replayInsert t e).map ReplayEntry.tag).Nodup := by
  have hl : (t.filter (fun x => decide (x.tag ≠ e.tag))).length ≤ 8 := (List.length_filter_le _ _).trans h.1
  have hn : ∀ u : List ReplayEntry, u.Sublist (t.filter (fun x => decide (x.tag ≠ e.tag))) →
      ((u ++ [e]).map ReplayEntry.tag).Nodup := by
    intro u hu
    rw [List.map_append, List.nodup_append]
    refine ⟨h.2.sublist ((hu.trans List.filter_sublist).map _), by simp, ?_⟩
    intro a ha b hb
    obtain ⟨x, hx, rfl⟩ := List.mem_map.1 ha
    have := (List.mem_filter.1 (hu.subset hx)).2
    simp_all
  unfold replayInsert Config.replayCapacity
  dsimp only
  split
  · refine ⟨?_, hn _ (List.Sublist.refl _)⟩
    rw [List.length_append, List.length_singleton]
    omega
  · refine ⟨?_, hn _ (List.drop_sublist _ _)⟩
    rw [List.length_append, List.length_drop, List.length_singleton]
    omega

theorem Txn.tidy_ended {n : Nat} :
    Txn.tidy { state := .none, number := none, idleRunning := false, nextNumber := n, staging := [] } := by
  simp [Txn.tidy, stagedBytes]

theorem Link.bounded_restarted (b : Bool) : (Link.restarted b).bounded := by simp [Link.bounded, Link.restarted]

theorem nextNoticeNumber_range {n : Nat} : 1 ≤ nextNoticeNumber n ∧ nextNoticeNumber n ≤ 255 := by
  unfold nextNoticeNumber
  split <;> omega

section
variable {s₀ s : State}

@[simp] theorem Steady.setPage (h : Steady s₀ s) (p : PageIx) (r : PageRec) : Steady s₀ (s.setPage p r) := by
  simp [State.setPage, h]

@[simp] theorem Steady.subLive (h : Steady s₀ s) (p : PageIx) (n : Nat) : Steady s₀ (s.subLive p n) := h.setPage _ _

@[simp] theorem Steady.putEntry (h : Steady s₀ s) (e : DirEntry) : Steady s₀ (s.putEntry e) := by
  simpa [State.putEntry] using h.withDirectory putEntry_sorted

@[simp] theorem Steady.addStale (h : Steady s₀ s) (i n) : Steady s₀ (s.addStale i n) := by
  simpa [State.addStale] using
    h.withDirectory (directorySorted_map (fun e => by by_cases k : e.ident = i <;> simp [k]))

@[simp] theorem Steady.dropLive (h : Steady s₀ s) (e : DirEntry) : Steady s₀ (s.dropLive e) := by
  have key : ∀ (bs : List BumpLoc) (s : State), Steady s₀ s →
      Steady s₀ (bs.foldl (fun s b => s.subLive b.loc.page 1) s) := by
    intro bs
    induction bs with
    | nil => exact fun _ k => k
    | cons b bs ih => exact fun s k => ih _ (k.subLive _ _)
  exact key _ _ (h.subLive _ _)

theorem Steady.placeFrame (h : Steady s₀ s) (f : Frame) (room : s.link.transmit.length < 6) :
    Steady s₀ (s.placeFrame f) := by
  simp only [State.placeFrame, steady_mk]
  refine h.withLink fun ⟨a, _, c⟩ => ⟨a, ?_, c⟩
  simpa using room

theorem txRoom_length (room : s.txRoom = true) : s.link.transmit.length < 6 := by
  simp only [State.txRoom, Bool.and_eq_true, decide_eq_true_eq] at room
  exact room.1

@[simp] theorem Steady.beginWait (h : Steady s₀ s) (p : Producer) : Steady s₀ (s.beginWait p) := by
  unfold State.beginWait
  split
  · exact h
  · exact steady_mk.2 (h.withLink id)

@[simp] theorem Steady.handlerSend (h : Steady s₀ s) (f : Frame) : Steady s₀ (s.handlerSend f) := by
  unfold State.handlerSend
  split
  · exact h.placeFrame f (txRoom_length (by assumption))
  · apply Steady.beginWait
    exact steady_mk.2 (h.withLink id)

@[simp] theorem Steady.answer (h : Steady s₀ s) (f : Frame) (p) : Steady s₀ (s.answer f p) := h.handlerSend _

@[simp] theorem Steady.reply (h : Steady s₀ s) (p : List Byte) : Steady s₀ (s.reply p) := by
  unfold State.reply
  split
  · exact h
  · rename_i r _
    extract_lets _ t f
    have k : Steady s₀ t := by
      unfold t
      split
      · refine steady_mk.2 (h.withLink fun ⟨a, b, c, d, e⟩ => ?_)
        obtain ⟨c, d⟩ := replayInsert_bounded (e := replayEntryOf r p) ⟨c, d⟩
        exact ⟨a, b, c, d, e⟩
      · exact h
    clear_value t
    split
    · simpa using k.placeFrame _ (txRoom_length (by assumption))
    · simp [k]

@[simp] theorem Steady.dropUnsent (h : Steady s₀ s) (kept : List Notice) : Steady s₀ (s.dropUnsent kept) :=
  steady_mk.2 ⟨h.pending, h.cells, h.directory, h.link, h.notices, h.txn⟩

@[simp] theorem Steady.sendNotice (h : Steady s₀ s) (f : Frame) : Steady s₀ (s.sendNotice f) := by
  unfold State.sendNotice
  split
  · rename_i room
    rw [Bool.and_eq_true] at room
    exact h.placeFrame f (txRoom_length room.1)
  · exact steady_mk.2 ⟨h.pending, h.cells, h.directory, h.link, h.notices, h.txn⟩

theorem Steady.joinNotice (h : Steady s₀ s) (c : NoticeContent) (k : s.muted = false) : Steady s₀ (s.joinNotice c) := by
  unfold State.joinNotice
  refine Steady.sendNotice (Steady.dropUnsent (steady_mk.2 (h.withNotices fun ⟨⟨a, b, c, d, e⟩, _⟩ => ⟨?_, ?_⟩)) _) _
  · have hd : ∀ x ∈ s.notices.queue.drop 1, 1 ≤ x.number ∧ x.number ≤ 255 ∧ x.lost ≤ 255 :=
      fun x hx => d x (List.mem_of_mem_drop hx)
    refine ⟨?_, nextNoticeNumber_range.1, nextNoticeNumber_range.2, ?_, e⟩
    · by_cases k : s.notices.queue.length < 8 <;> simp [Config.noticeCapacity, k]
      omega
    · intro n hn
      rw [List.mem_append, List.mem_singleton] at hn
      rcases hn with hn | rfl
      · by_cases k : s.notices.queue.length < 8
        · exact d n (by simpa [Config.noticeCapacity, k] using hn)
        · exact hd n (by simpa [Config.noticeCapacity, k] using hn)
      · refine ⟨b, c, ?_⟩
        dsimp only
        split
        · omega
        · split <;> omega
  · simp [k]

@[simp] theorem Steady.raise (h : Steady s₀ s) (c : NoticeContent) : Steady s₀ (s.raise c) := by
  unfold State.raise
  split
  · exact steady_mk.2 (h.withNotices fun ⟨⟨a, _, _, d, e⟩, q⟩ =>
      ⟨⟨a, nextNoticeNumber_range.1, nextNoticeNumber_range.2, d, e⟩, q⟩)
  · exact h.joinNotice c (by simpa using ‹¬s.muted = true›)

@[simp] theorem Steady.emptyNotices (h : Steady s₀ s) : Steady s₀ s.emptyNotices := by
  have k := (h.withLink (l := { s.link with waiters := s.link.waiters.filter (fun p => p ≠ .noticeUnit) }) id)
  refine steady_mk.2 ⟨k.pending, k.cells, k.directory, k.link, fun q => ?_, k.txn⟩
  obtain ⟨⟨_, b, c, _, e⟩, _⟩ := h.notices q
  exact ⟨⟨by simp, b, c, by simp, e⟩, fun _ => rfl⟩

theorem State.emptyNotices_queue (s : State) : s.emptyNotices.notices.queue = [] := rfl

/-- A state whose queue is empty may begin to be muted. -/
theorem Steady.mute (h : Steady s₀ s) (e : s.notices.queue = []) (r : Option Restarting) (u : Supply) :
    Steady s₀ { s with restarting := r, supply := u } :=
  ⟨h.pending, h.cells, h.directory, h.link, fun q => ⟨(h.notices q).1, fun _ => e⟩, h.txn⟩

/-- A state that is muted no more than before. -/
theorem Steady.unmute (h : Steady s₀ s) {r : Option Restarting} {u : Supply}
    (e : mutedBy u.resetNHigh r = true → s.muted = true) : Steady s₀ { s with restarting := r, supply := u } :=
  ⟨h.pending, h.cells, h.directory, h.link, fun q => ⟨(h.notices q).1, fun k => (h.notices q).2 (e k)⟩, h.txn⟩

@[simp] theorem Steady.endTxn (h : Steady s₀ s) : Steady s₀ s.endTxn :=
  steady_mk.2 (h.withTxn fun _ => Txn.tidy_ended)

@[simp] theorem Steady.askSupply (h : Steady s₀ s) (e : SupplyEvent) : Steady s₀ (s.askSupply e) := by
  unfold State.askSupply
  split
  · split <;> exact steady_mk.2 (h.withNotices id)
  all_goals exact h.raise _

@[simp] theorem Steady.addLive (h : Steady s₀ s) (p : PageIx) (n : Nat) : Steady s₀ (s.addLive p n) := by
  simp [State.addLive, h]

@[simp] theorem Steady.raiseUsed (h : Steady s₀ s) (p : PageIx) (limit : Nat) : Steady s₀ (s.raiseUsed p limit) := by
  simp [State.raiseUsed, h]

@[simp] theorem Steady.sealOpenPage (h : Steady s₀ s) : Steady s₀ s.sealOpenPage := by
  unfold State.sealOpenPage
  split <;> simp [h]

@[simp] theorem Steady.faultRun (h : Steady s₀ s) (r : Run) : Steady s₀ (s.faultRun r) := by
  simp [State.faultRun, h]

@[simp] theorem Steady.faultRunIfAny (h : Steady s₀ s) (r : Option Run) : Steady s₀ (s.faultRunIfAny r) := by
  cases r <;> simp [State.faultRunIfAny, h]

@[simp] theorem Steady.pageGone (h : Steady s₀ s) (p : PageIx) : Steady s₀ (s.pageGone p) := by
  simp [State.pageGone, h]

@[simp] theorem Steady.becomeErased (h : Steady s₀ s) (p : PageIx) (count : Nat) :
    Steady s₀ (s.becomeErased p count) := by
  simp [State.becomeErased, h]

@[simp] theorem Steady.becomeRetired (h : Steady s₀ s) (p : PageIx) : Steady s₀ (s.becomeRetired p) := by
  simp [State.becomeRetired, h]

@[simp] theorem Steady.request (h : Steady s₀ s) (who : Requester) (op : Option RequestOp) :
    Steady s₀ (s.request who op) := by
  unfold State.request
  split <;> simp [h]

@[simp] theorem Steady.start (h : Steady s₀ s) (who : Requester) (op : ArrayOp) : Steady s₀ (s.start who op) := by
  simp [State.start, h]

@[simp] theorem Steady.disown (h : Steady s₀ s) (who : Requester) : Steady s₀ (s.disown who) := by
  unfold State.disown
  repeat' split
  all_goals simp [h]

@[simp] theorem Steady.startCell (h : Steady s₀ s) (who : Requester) (r : Run) : Steady s₀ (s.startCell who r) := by
  simp [State.startCell, h]

@[simp] theorem Steady.landed (h : Steady s₀ s) : Steady s₀ s.landed := by
  simp [State.landed, h]

/-- A warm cause leaves the array as it is (R87). -/
theorem Steady.takeCause (h : Steady s₀ s) (c : Cause) (warm : isCold c = false) : Steady s₀ (s.takeCause c) := by
  unfold State.takeCause
  simp only [warm, Bool.false_eq_true, if_false, Bool.false_or, Bool.or_false]
  split
  · exact h.emptyNotices.mute s.emptyNotices_queue _ _
  · refine h.unmute ?_
    cases k : s.restarting <;> simp [State.muted, mutedBy, k]

end

/-! ### The landings: what changes the array's cells -/

theorem State.cutOff_wf {s : State} (h : s.array.cells.wf = true) : s.cutOff.array.cells.wf = true := by
  unfold State.cutOff
  split
  · exact h
  · dsimp only
    split
    · exact h
    · exact Memory.write_wf h
    · exact Memory.write_wf h
    · exact Memory.spoilPage_wf h

theorem State.cutOff_sound {s : State} (h : s.sound) : s.cutOff.sound := by
  refine ⟨State.cutOff_wf h.1, ?_⟩
  unfold State.cutOff
  split <;> exact h.2

theorem State.landCell_sound {s : State} (h : s.sound) (p : PageIx) (c : Nat) (w : CellWord) (o : ArrayOutcome) :
    (s.landCell p c w o).sound := ⟨Memory.write_wf h.1, h.2⟩

theorem State.withCells_sound {s : State} (h : s.sound) {m : Memory} (k : m.wf = true) :
    State.sound { s with array := { s.array with cells := m } } := ⟨k, h.2⟩

theorem State.landErase_sound {s : State} (h : s.sound) (p : PageIx) (n : Nat) (o : ArrayOutcome) :
    (s.landErase p n o).sound := by
  unfold State.landErase
  apply State.withCells_sound h
  cases o
  · exact Memory.write_wf (Memory.clearPage_wf h.1)
  · exact Memory.spoilPage_wf h.1

theorem State.takeCause_sound {s : State} (h : s.sound) (c : Cause) : (s.takeCause c).sound := by
  cases warm : isCold c
  · exact ((Steady.refl s).takeCause c warm).sound h
  · unfold State.takeCause
    simp only [warm, if_true, Bool.true_or]
    exact (((Steady.refl s.cutOff).emptyNotices).mute s.cutOff.emptyNotices_queue _ _).sound (State.cutOff_sound h)

end Sys2Proof.Machine
end

