-- ==== Sys2Proof/Laws/Directory.lean ====
section
/-! SUPPORT. Looking an identifier up after the directory's operations, and a page's record after the page table's. -/

namespace Sys2Proof.Machine

/-! ### The directory -/

theorem findEntry_ident {d : List DirEntry} {ident : Nat} {e : DirEntry} (h : findEntry d ident = some e) :
    e.ident = ident := by
  simpa using List.find?_some h

theorem findEntry_above {d : List DirEntry} {ident : Nat} (h : ∀ x ∈ d, ident < x.ident) : findEntry d ident = none := by
  simp only [findEntry, List.find?_eq_none]
  intro x hx
  have := h x hx
  simp
  omega

/-- What a directory in order answers after an entry has been placed. -/
theorem findEntry_putEntry {d : List DirEntry} (h : directorySorted d) (e : DirEntry) (ident : Nat) :
    findEntry (putEntry d e) ident = if e.ident = ident then some e else findEntry d ident := by
  induction d with
  | nil => by_cases c : e.ident = ident <;> simp [putEntry, findEntry, c]
  | cons f d ih =>
    have hs : directorySorted d := (List.pairwise_cons.1 h).2
    have ha : ∀ x ∈ d, f.ident < x.ident := fun x hx =>
      (List.pairwise_cons.1 h).1 x.ident (List.mem_map.2 ⟨x, hx, rfl⟩)
    have ih := ih hs
    unfold findEntry at ih ⊢
    unfold putEntry
    split
    · by_cases c : e.ident = ident
      · simp [c]
      · simp [c]
    · split
      · rename_i q
        by_cases c : e.ident = ident
        · simp [c]
        · have c' : ¬f.ident = ident := fun w => c (q.trans w)
          simp [c, c']
      · rename_i q
        by_cases k : f.ident = ident
        · have c : ¬e.ident = ident := fun w => q (w.trans k.symm)
          simp [k, c]
        · simp [k, ih]

theorem State.entryOf_putEntry {s : State} (h : directorySorted s.directory) (e : DirEntry) (ident : Nat) :
    (s.putEntry e).entryOf ident = if e.ident = ident then some e else s.entryOf ident :=
  findEntry_putEntry h e ident

theorem findEntry_dropEntry {d : List DirEntry} (gone ident : Nat) :
    findEntry (dropEntry d gone) ident = if gone = ident then none else findEntry d ident := by
  unfold findEntry dropEntry
  induction d with
  | nil => simp
  | cons f d ih =>
    by_cases c : f.ident = gone <;> by_cases k : f.ident = ident <;> by_cases w : gone = ident <;> simp_all

/-! ### The page table -/

theorem State.page_setPage (s : State) (p q : PageIx) (r : PageRec) :
    (s.setPage p r).page q = if p = q then r else s.page q := by
  by_cases c : p = q
  · subst c
    simp [State.page, State.setPage, Vector.get_eq_getElem]
  · have : p.val ≠ q.val := fun w => c (Fin.ext w)
    simp [State.page, State.setPage, c, Vector.get_eq_getElem, Vector.getElem_set_ne _ _ this]

theorem State.mem_pagesIn {s : State} {st : PageState} {p : PageIx} : p ∈ s.pagesIn st ↔ (s.page p).state = st := by
  simp [State.pagesIn, allPages]

theorem State.pagesIn_sorted (s : State) (st : PageState) : (s.pagesIn st).Pairwise (fun p q => p < q) :=
  List.Pairwise.filter _ (by decide : allPages.Pairwise (fun p q => p < q))

/-! ### The victim counts -/

/-- The locations that State.countSuperseded counts are those of the statements' vocabulary. -/
theorem passedLoc_eq (s : State) (l : Loc) : s.compaction.passedLoc l = s.passedInVictim l := by
  unfold Compaction.passedLoc State.passedInVictim Compaction.passed
  congr 2
  funext x
  congr 1
  cases s.compaction.walk with
  | none => rfl
  | some k => cases s.compaction.action <;> rfl

/-- Counting what has been superseded changes the victim counts alone. -/
theorem countSuperseded_eq (s : State) (ident : Nat) (locs : List Loc) : s.countSuperseded ident locs = { s with
    compaction := { s.compaction with victimCounts := (s.countSuperseded ident locs).compaction.victimCounts } } := by
  unfold State.countSuperseded
  dsimp only
  split <;> rfl

end Sys2Proof.Machine
end

