-- ==== Sys2Proof/Laws/Formats.lean ====
section
/-! SUPPORT. What the formats read back: numeric fields, the fields of a first cell, the check field of an entry, and the data
cells of a BLOB. -/

namespace Sys2Proof.Machine

/-! ### Numeric fields -/

theorem beBytes_length (n v : Nat) : (beBytes n v).length = n := by
  induction n generalizing v with
  | zero => rfl
  | succ n ih => simp [beBytes, ih]

theorem beNat_append (bs : List Byte) (b : Byte) : beNat (bs ++ [b]) = beNat bs * 256 + b.toNat := by
  simp [beNat]

/-- A numeric field reads back as the number it was written from. -/
theorem beNat_beBytes {n v : Nat} (h : v < 256 ^ n) : beNat (beBytes n v) = v := by
  induction n generalizing v with
  | zero =>
    simp at h
    simp [beNat, beBytes, h]
  | succ n ih =>
    rw [beBytes, beNat_append, ih (by rw [pow_succ] at h; omega), BitVec.toNat_ofNat]
    omega

/-! ### First cells -/

section
variable (code b1 : Byte) (b2 : BitVec 16) (b4 b8 : BitVec 32) (b12 b13 : Byte) (c : Check)

/-- Every bit of a first cell with its check field set. -/
theorem headerCell_bit (i : Nat) :
    (headerCell code b1 b2 b4 b8 b12 b13 ||| c.setWidth 128).getLsbD i =
      if i < 16 then c.getLsbD i else if i < 24 then b13.getLsbD (i - 16) else if i < 32 then b12.getLsbD (i - 24)
      else if i < 64 then b8.getLsbD (i - 32) else if i < 96 then b4.getLsbD (i - 64)
      else if i < 112 then b2.getLsbD (i - 96) else if i < 120 then b1.getLsbD (i - 112) else code.getLsbD (i - 120) := by
  simp only [headerCell, BitVec.getLsbD_or, BitVec.getLsbD_append, BitVec.getLsbD_setWidth]
  by_cases h1 : i < 16
  · simp [h1, show i < 128 by omega]
  · have q : c.getLsbD i = false := BitVec.getLsbD_of_ge c i (by omega)
    simp only [h1, q, Bool.and_false, Bool.or_false, if_false, Nat.sub_sub]
    repeat' split
    all_goals first
      | omega
      | rfl

theorem headerCell_check : (headerCell code b1 b2 b4 b8 b12 b13 ||| c.setWidth 128).extractLsb' 0 16 = c := by
  refine BitVec.eq_of_getLsbD_eq fun i hi => ?_
  rw [BitVec.getLsbD_extractLsb', headerCell_bit]
  simp only [hi, decide_true, Bool.true_and]
  repeat' split
  all_goals first
    | omega
    | exact congrArg _ (by omega)

theorem headerCell_byte0 : cellByte (headerCell code b1 b2 b4 b8 b12 b13 ||| c.setWidth 128) 0 = code := by
  refine BitVec.eq_of_getLsbD_eq fun i hi => ?_
  unfold cellByte
  rw [BitVec.getLsbD_extractLsb', headerCell_bit]
  simp only [hi, decide_true, Bool.true_and]
  repeat' split
  all_goals first
    | omega
    | exact congrArg _ (by omega)

theorem headerCell_byte1 : cellByte (headerCell code b1 b2 b4 b8 b12 b13 ||| c.setWidth 128) 1 = b1 := by
  refine BitVec.eq_of_getLsbD_eq fun i hi => ?_
  unfold cellByte
  rw [BitVec.getLsbD_extractLsb', headerCell_bit]
  simp only [hi, decide_true, Bool.true_and]
  repeat' split
  all_goals first
    | omega
    | exact congrArg _ (by omega)

theorem headerCell_field0 : cellField (headerCell code b1 b2 b4 b8 b12 b13 ||| c.setWidth 128) 0 1 = code.toNat := by
  change (BitVec.extractLsb' 120 8 _).toNat = _
  congr 1
  refine BitVec.eq_of_getLsbD_eq fun i hi => ?_
  rw [BitVec.getLsbD_extractLsb', headerCell_bit]
  simp only [hi, decide_true, Bool.true_and]
  repeat' split
  all_goals first
    | omega
    | exact congrArg _ (by omega)

theorem headerCell_field2 : cellField (headerCell code b1 b2 b4 b8 b12 b13 ||| c.setWidth 128) 2 2 = b2.toNat := by
  unfold cellField
  congr 1
  refine BitVec.eq_of_getLsbD_eq fun i hi => ?_
  rw [BitVec.getLsbD_extractLsb', headerCell_bit]
  simp only [hi, decide_true, Bool.true_and]
  repeat' split
  all_goals first
    | omega
    | exact congrArg _ (by omega)

theorem headerCell_field4 : cellField (headerCell code b1 b2 b4 b8 b12 b13 ||| c.setWidth 128) 4 4 = b4.toNat := by
  unfold cellField
  congr 1
  refine BitVec.eq_of_getLsbD_eq fun i hi => ?_
  rw [BitVec.getLsbD_extractLsb', headerCell_bit]
  simp only [hi, decide_true, Bool.true_and]
  repeat' split
  all_goals first
    | omega
    | exact congrArg _ (by omega)

theorem headerCell_field4high (hi lo : BitVec 16) :
    cellField (headerCell code b1 b2 (hi ++ lo) b8 b12 b13 ||| c.setWidth 128) 4 2 = hi.toNat := by
  change (BitVec.extractLsb' 80 16 _).toNat = _
  congr 1
  refine BitVec.eq_of_getLsbD_eq fun i h => ?_
  rw [BitVec.getLsbD_extractLsb', headerCell_bit]
  simp only [h, decide_true, Bool.true_and, BitVec.getLsbD_append]
  repeat' split
  all_goals first
    | omega
    | exact congrArg _ (by omega)

theorem headerCell_field8 : cellField (headerCell code b1 b2 b4 b8 b12 b13 ||| c.setWidth 128) 8 4 = b8.toNat := by
  unfold cellField
  congr 1
  refine BitVec.eq_of_getLsbD_eq fun i hi => ?_
  rw [BitVec.getLsbD_extractLsb', headerCell_bit]
  simp only [hi, decide_true, Bool.true_and]
  repeat' split
  all_goals first
    | omega
    | exact congrArg _ (by omega)

theorem headerCell_field12 : cellField (headerCell code b1 b2 b4 b8 b12 b13 ||| c.setWidth 128) 12 1 = b12.toNat := by
  unfold cellField
  congr 1
  refine BitVec.eq_of_getLsbD_eq fun i hi => ?_
  rw [BitVec.getLsbD_extractLsb', headerCell_bit]
  simp only [hi, decide_true, Bool.true_and]
  repeat' split
  all_goals first
    | omega
    | exact congrArg _ (by omega)

theorem headerCell_field13 : cellField (headerCell code b1 b2 b4 b8 b12 b13 ||| c.setWidth 128) 13 1 = b13.toNat := by
  unfold cellField
  congr 1
  refine BitVec.eq_of_getLsbD_eq fun i hi => ?_
  rw [BitVec.getLsbD_extractLsb', headerCell_bit]
  simp only [hi, decide_true, Bool.true_and]
  repeat' split
  all_goals first
    | omega
    | exact congrArg _ (by omega)

/-- Clearing the check field of a first cell gives the cell before its check was set. -/
theorem headerCell_cleared :
    ((headerCell code b1 b2 b4 b8 b12 b13 ||| c.setWidth 128) >>> 16) <<< 16 = headerCell code b1 b2 b4 b8 b12 b13 := by
  refine BitVec.eq_of_getLsbD_eq fun i hi => ?_
  have z := headerCell_bit code b1 b2 b4 b8 b12 b13 0 i
  simp only [BitVec.setWidth_zero, BitVec.ofNat_eq_ofNat, BitVec.or_zero] at z
  rw [z, BitVec.getLsbD_shiftLeft, BitVec.getLsbD_ushiftRight]
  by_cases h : i < 16
  · simp [h]
  · rw [show 16 + (i - 16) = i by omega, headerCell_bit]
    simp [h, hi]

end

/-! ### The check of an entry -/

/-- A cell whose check field is zero. -/
def uncheckedCell (w : CellWord) : Prop := ∀ c : Check,
  ((w ||| c.setWidth 128) >>> 16) <<< 16 = w ∧ (w ||| c.setWidth 128).extractLsb' 0 16 = c

theorem headerCell_unchecked (code b1 : Byte) (b2 : BitVec 16) (b4 b8 : BitVec 32) (b12 b13 : Byte) :
    uncheckedCell (headerCell code b1 b2 b4 b8 b12 b13) := fun _ => ⟨headerCell_cleared .., headerCell_check ..⟩

theorem entryHeader_unchecked (e : Entry) : uncheckedCell (entryHeader e) := by
  cases e <;> exact headerCell_unchecked _ _ _ _ _ _ _

theorem uncheckedCell_clear {w : CellWord} (h : uncheckedCell w) : (w >>> 16) <<< 16 = w := by
  simpa using (h 0).1

/-- The words of an entry with its check field set. -/
theorem setCheck_cons {w : CellWord} (h : uncheckedCell w) (rest : List CellWord) :
    setCheck (w :: rest) = (w ||| (entryCheck (w :: rest)).setWidth 128) :: rest := by
  simp [setCheck, clearCheck, uncheckedCell_clear h]

/-- A check field that has been set matches. -/
theorem checkMatches_set {w : CellWord} (h : uncheckedCell w) (rest : List CellWord) :
    checkMatches ((w ||| (entryCheck (w :: rest)).setWidth 128) :: rest) = true := by
  have e : entryCheck ((w ||| (entryCheck (w :: rest)).setWidth 128) :: rest) = entryCheck (w :: rest) := by
    simp only [entryCheck, clearCheck, uncheckedCell_clear h, (h _).1]
  simp [checkMatches, e, (h _).2]

/-! ### The data cells of a BLOB -/

/-- Every bit of the cell built from the first n bytes. -/
theorem cellOfBytes_bit (bs : List Byte) (n i : Nat) (hi : i < 128) :
    ((List.range n).foldl (fun (acc : CellWord) k => (acc <<< 8) ||| (bs.getD k 0).setWidth 128) 0).getLsbD i
      = if i < 8 * n then (bs.getD (n - 1 - i / 8) 0).getLsbD (i % 8) else false := by
  induction n generalizing i with
  | zero => simp
  | succ n ih =>
    rw [List.range_succ, List.foldl_append, List.foldl_cons, List.foldl_nil, BitVec.getLsbD_or, BitVec.getLsbD_shiftLeft,
      BitVec.getLsbD_setWidth]
    by_cases h : i < 8
    · simp [h, hi, show i < 8 * (n + 1) by omega, Nat.div_eq_of_lt h, Nat.mod_eq_of_lt h]
    · have q : ∀ b : Byte, b.getLsbD i = false := fun b => BitVec.getLsbD_of_ge b i (by omega)
      rw [ih (i - 8) (by omega), q]
      simp only [hi, h, decide_true, decide_false, Bool.not_false, Bool.true_and, Bool.and_false, Bool.or_false]
      have a : i - 8 < 8 * n ↔ i < 8 * (n + 1) := by omega
      have b : n - 1 - (i - 8) / 8 = n + 1 - 1 - i / 8 := by omega
      have c : (i - 8) % 8 = i % 8 := by omega
      simp only [a, b, c]

/-- A byte of a cell built from bytes. -/
theorem cellByte_cellOfBytes (bs : List Byte) {k : Nat} (hk : k < 16) : cellByte (cellOfBytes bs) k = bs.getD k 0 := by
  refine BitVec.eq_of_getLsbD_eq fun i hi => ?_
  unfold cellByte cellOfBytes
  rw [BitVec.getLsbD_extractLsb', cellOfBytes_bit bs 16 _ (by omega)]
  have a : 8 * (15 - k) + i < 8 * 16 := by omega
  have b : 16 - 1 - (8 * (15 - k) + i) / 8 = k := by omega
  have c : (8 * (15 - k) + i) % 8 = i := by omega
  simp [hi, a, b, c]

/-- The bytes of a cell built from bytes: those bytes, filled up with zeros. -/
theorem cellBytes_cellOfBytes (bs : List Byte) :
    cellBytes (cellOfBytes bs) = (List.range 16).map (fun k => bs.getD k 0) :=
  List.map_congr_left fun _ h => cellByte_cellOfBytes bs (List.mem_range.1 h)

/-- The bytes of the data cells, byte by byte. -/
theorem dataCells_bytes (data : List Byte) :
    (dataCells data).flatMap cellBytes
      = (List.range (16 * ((data.length + 15) / 16))).map (fun k => data.getD k 0) := by
  unfold dataCells
  rw [List.flatMap_map]
  generalize (data.length + 15) / 16 = n
  induction n with
  | zero => rfl
  | succ n ih =>
    rw [List.range_succ, List.flatMap_append, ih, show 16 * (n + 1) = 16 * n + 16 by omega, List.range_add,
      List.map_append, List.flatMap_singleton, cellBytes_cellOfBytes, List.map_map]
    congr 1
    refine List.map_congr_left fun k _ => ?_
    simp [List.getD_eq_getElem?_getD, List.getElem?_drop]

theorem map_getD_range (data : List Byte) {n : Nat} (h : data.length ≤ n) :
    ((List.range n).map (fun k => data.getD k 0)).take data.length = data := by
  refine List.ext_getElem (by simpa using h) fun i h1 h2 => ?_
  simp [List.getD_eq_getElem?_getD, h2]

/-- The data of a BLOB reads back from its data cells. -/
theorem dataCells_take (data : List Byte) : ((dataCells data).flatMap cellBytes).take data.length = data := by
  rw [dataCells_bytes]
  exact map_getD_range data (by omega)

end Sys2Proof.Machine
end

