-- ==== Sys2Proof/Laws/Receiving.lean ====
section
/-! SUPPORT. Receiving a frame: the receiver's state after each part of a good frame, and what the whole frame does. -/

namespace Sys2Proof.Machine

/-- The good characters of a list, as commands. -/
def goodCharacters (bs : List Byte) : List Instr := bs.map (fun b => Instr.receiveCharacter b true)

theorem execAll_append (a b : List Instr) (s t : State) (h : execAll a s = .next t) :
    execAll (a ++ b) s = execAll b t := by
  induction a generalizing s with
  | nil =>
    cases h
    rfl
  | cons c a ih =>
    rw [execAll] at h
    rw [List.cons_append, execAll]
    split at h
    · exact ih _ h
    · cases h
    · cases h

/-- The receiver in a frame, with the bytes it has kept. -/
def State.receiving (s : State) (rx : RxState) (kept : List Byte) : State :=
  { s with link := { s.link with rx, received := kept, byteGapRunning := true } }

section
variable {s : State} (h : s.listening = true)
include h

theorem State.receive_start (rx : s.link.rx = .hunt) :
    exec (.receiveCharacter 0xB7 true) s = .next (s.receiving .length []) := by
  simp [exec, execReceiveCharacter, State.character, h, State.goodCharacter, rx, State.receiving]

theorem State.receive_length {v : Byte} (hv : 2 ≤ v.toNat) :
    exec (.receiveCharacter v true) (s.receiving .length []) = .next (s.receiving .body [v]) := by
  have l : (s.receiving .length []).listening = true := h
  have r : (s.receiving .length []).link.rx = .length := rfl
  simp only [exec, execReceiveCharacter, State.character, l, if_true, State.goodCharacter, r, State.keep]
  rw [if_neg (by omega)]
  rfl

theorem State.receive_body (len v : Byte) (kept : List Byte) :
    exec (.receiveCharacter v true) (s.receiving .body (len :: kept))
      = .next (s.receiving (if len.toNat ≤ kept.length + 1 then .check else .body) (len :: kept ++ [v])) := by
  have l : (s.receiving .body (len :: kept)).listening = true := h
  have r : (s.receiving .body (len :: kept)).link.rx = .body := rfl
  have k : (s.receiving .body (len :: kept)).link.received = len :: kept := rfl
  simp only [exec, execReceiveCharacter, State.character, l, if_true, State.goodCharacter, r, State.keep, k,
    List.headD_cons, List.length_cons]
  rfl

/-- The body's bytes. -/
theorem State.receive_bodies (len : Byte) (kept bs : List Byte) (hb : bs ≠ [])
    (hl : kept.length + bs.length = len.toNat) :
    execAll (goodCharacters bs) (s.receiving .body (len :: kept))
      = .next (s.receiving .check (len :: kept ++ bs)) := by
  induction bs generalizing kept with
  | nil => exact absurd rfl hb
  | cons b bs ih =>
    rw [List.length_cons] at hl
    rw [goodCharacters, List.map_cons, execAll, State.receive_body h]
    cases bs with
    | nil =>
      rw [if_pos (by simp at hl; omega)]
      rfl
    | cons c bs =>
      rw [if_neg (by simp at hl; omega)]
      have := ih (kept ++ [b]) (by simp) (by simp at hl ⊢; omega)
      simpa [goodCharacters] using this

theorem State.receive_check1 (len v : Byte) (body : List Byte) (hl : body.length = len.toNat) :
    exec (.receiveCharacter v true) (s.receiving .check (len :: body))
      = .next (s.receiving .check (len :: body ++ [v])) := by
  have l : (s.receiving .check (len :: body)).listening = true := h
  have r : (s.receiving .check (len :: body)).link.rx = .check := rfl
  have k : (s.receiving .check (len :: body)).link.received = len :: body := rfl
  simp only [exec, execReceiveCharacter, State.character, l, if_true, State.goodCharacter, r, State.keep, k,
    List.headD_cons, List.length_cons]
  rw [if_neg (by omega)]
  rfl

theorem State.receive_check2 (len c v : Byte) (body : List Byte) (hl : body.length = len.toNat) :
    exec (.receiveCharacter v true) (s.receiving .check (len :: body ++ [c]))
      = .next ((s.receiving .check (len :: body ++ [c])).frameComplete (len :: body ++ [c] ++ [v])) := by
  have l : (s.receiving .check (len :: body ++ [c])).listening = true := h
  have r : (s.receiving .check (len :: body ++ [c])).link.rx = .check := rfl
  have k : (s.receiving .check (len :: body ++ [c])).link.received = len :: body ++ [c] := rfl
  simp only [exec, execReceiveCharacter, State.character, l, if_true, State.goodCharacter, r, k]
  rw [if_pos (by simp; omega)]

end

/-- A whole frame whose check bytes are right is handed to the handler. -/
theorem State.frameComplete_good (s : State) (len kind tag c v : Byte) (payload : List Byte)
    (hc : checkBytes (checkValue (len :: kind :: tag :: payload)) = [c, v]) :
    s.frameComplete (len :: kind :: tag :: payload ++ [c] ++ [v]) = s.hunt.deliver { kind, tag, payload } := by
  have t : ∀ bs : List Byte, (bs ++ [c] ++ [v]).take ((bs ++ [c] ++ [v]).length - 2) = bs := fun bs => by simp
  have d : ∀ bs : List Byte, (bs ++ [c] ++ [v]).drop ((bs ++ [c] ++ [v]).length - 2) = [c, v] := fun bs => by simp
  simp only [State.frameComplete, t, d, hc, if_true]
  rfl

/-- A whole frame whose check bytes are wrong is discarded. -/
theorem State.frameComplete_bad (s : State) (bs : List Byte) (c v : Byte) (hc : checkBytes (checkValue bs) ≠ [c, v]) :
    s.frameComplete (bs ++ [c] ++ [v]) = s.discardFrame := by
  have t : (bs ++ [c] ++ [v]).take ((bs ++ [c] ++ [v]).length - 2) = bs := by simp
  have d : (bs ++ [c] ++ [v]).drop ((bs ++ [c] ++ [v]).length - 2) = [c, v] := by simp
  simp only [State.frameComplete, t, d, hc, if_false]

/-- Characters the device ignores leave its state. -/
theorem execAll_deaf {s : State} (h : s.listening = false) (bs : List Byte) : execAll (goodCharacters bs) s = .next s := by
  induction bs with
  | nil => rfl
  | cons b bs ih =>
    rw [goodCharacters, List.map_cons, execAll]
    simpa [exec, execReceiveCharacter, State.character, h, goodCharacters] using ih

/-- The characters of a good frame, received in HUNT by a device that listens. -/
theorem execAll_frame {s : State} (h : s.listening = true) (rx : s.link.rx = .hunt) (re : s.link.received = [])
    (bg : s.link.byteGapRunning = false) (kind tag : Byte) (payload : List Byte) (hp : payload.length ≤ 253) :
    execAll (goodCharacters (frameBytes { kind, tag, payload })) s = .next (s.deliver { kind, tag, payload }) := by
  have hl : (frameLen payload).toNat = payload.length + 2 := by
    rw [frameLen, BitVec.toNat_ofNat]
    omega
  have hs : (s.receiving .check []).hunt = s := by
    obtain ⟨_, ⟨_, _, _, _, _, _, _, _, _, _, _, _⟩, _, _, _, _, _, _, _, _, _, _, _, _⟩ := s
    cases rx
    cases re
    cases bg
    rfl
  rw [frameBytes, goodCharacters, List.cons_append, List.map_cons, execAll, State.receive_start h rx]
  dsimp only
  rw [List.cons_append, List.map_cons, execAll, State.receive_length h (by omega)]
  dsimp only
  have len : (kind :: tag :: payload).length = (frameLen payload).toNat := by simp [hl]
  change execAll (goodCharacters (kind :: tag :: payload ++ checkBytes _)) _ = _
  rw [goodCharacters, List.map_append]
  change execAll (goodCharacters (kind :: tag :: payload) ++ goodCharacters (checkBytes _)) _ = _
  rw [execAll_append _ _ _ _ (State.receive_bodies h (frameLen payload) [] (kind :: tag :: payload) (by simp) (by simp [hl]))]
  rw [checkBytes, goodCharacters, List.map_cons, List.map_cons, List.map_nil, execAll]
  rw [show frameLen payload :: [] ++ kind :: tag :: payload = frameLen payload :: (kind :: tag :: payload) from rfl,
    State.receive_check1 h _ _ _ len]
  dsimp only
  rw [execAll, State.receive_check2 h _ _ _ _ len]
  dsimp only
  rw [execAll, State.frameComplete_good _ _ _ _ (BitVec.extractLsb' 8 8 (frameCheck kind tag payload))
    (BitVec.extractLsb' 0 8 (frameCheck kind tag payload)) _ rfl]
  exact congrArg (fun t => Host.Outcome.next (State.deliver t _)) hs

end Sys2Proof.Machine
end

