-- ==== Sys2Proof/Laws/Staging.lean ====
section
/-! SUPPORT. Staging: the payloads of the STAGE requests read back, what is staged on an identifier, and what an accepted
or a refused STAGE request leaves. -/

namespace Sys2Proof.Machine

/-! ### Payloads -/

theorem take4_number {number : Nat} (h : number ≤ 4294967294) (r : List Byte) :
    beNat ((beBytes 4 number ++ r).take 4) = number := by
  rw [List.take_left' (by simp [beBytes_length])]
  exact beNat_beBytes (by omega)

theorem drop4_ident {number ident : Nat} (h : ident ≤ 4094) (r : List Byte) :
    beNat (((beBytes 4 number ++ beBytes 2 ident ++ r).drop 4).take 2) = ident := by
  rw [List.append_assoc, List.drop_left' (by simp [beBytes_length]), List.take_left' (by simp [beBytes_length])]
  exact beNat_beBytes (by omega)

theorem drop6_rest {number ident : Nat} (r : List Byte) : (beBytes 4 number ++ beBytes 2 ident ++ r).drop 6 = r := by
  rw [List.drop_left' (by simp [beBytes_length])]

/-! ### What is staged on an identifier -/

section
variable {s : State} {ident : Nat}

theorem State.unstaged.stagedOn (h : s.unstaged ident) : stagedOn s.txn.staging ident = none := by
  simp only [Machine.stagedOn, List.find?_eq_none]
  intro x hx
  simpa using h x hx

variable {before after : List StagedOp} {op : StagedOp}

theorem State.stagedAt.stagedOn (h : s.stagedAt ident before op after) : stagedOn s.txn.staging ident = some op := by
  obtain ⟨h1, h2, h3, _⟩ := h
  simp only [Machine.stagedOn, h1, List.find?_append]
  rw [List.find?_eq_none.2 (fun x hx => by simpa using h3 x hx)]
  simp [h2]

theorem State.stagedAt.replaced (h : s.stagedAt ident before op after) (new : StagedOp) :
    s.txn.staging.map (fun x => if opIdent x = ident then new else x) = before ++ new :: after := by
  obtain ⟨h1, h2, h3, h4⟩ := h
  have m : ∀ l : List StagedOp, (∀ x ∈ l, opIdent x ≠ ident) →
      l.map (fun x => if opIdent x = ident then new else x) = l := fun l hl => by
    conv_rhs => rw [← List.map_id l]
    exact List.map_congr_left fun x hx => if_neg (hl x hx)
  rw [h1, List.map_append, List.map_cons, m _ h3, m _ h4, if_pos h2]

theorem State.stagedAt.removed (h : s.stagedAt ident before op after) :
    s.txn.staging.filter (fun x => opIdent x ≠ ident) = before ++ after := by
  obtain ⟨h1, h2, h3, h4⟩ := h
  rw [h1, List.filter_append, List.filter_cons, List.filter_eq_self.2 (fun x hx => by simpa using h3 x hx),
    List.filter_eq_self.2 (fun x hx => by simpa using h4 x hx)]
  simp [h2]

theorem State.holdsKind_tally : s.holdsKind ident 2 ↔ directoryView (s.entryOf ident) = .tally := by
  unfold State.holdsKind directoryView
  cases s.entryOf ident with
  | none => simp
  | some e =>
    obtain ⟨_, _, _, _, b⟩ := e
    cases b <;> simp [bodyCode]

theorem State.holdsKind_blob : s.holdsKind ident 1 ↔ directoryView (s.entryOf ident) = .blob := by
  unfold State.holdsKind directoryView
  cases s.entryOf ident with
  | none => simp
  | some e =>
    obtain ⟨_, _, _, _, b⟩ := e
    cases b <;> simp [bodyCode]

end

/-! ### The outcome of a STAGE request -/

section
variable {s : State} {kind : RequestKind} {tag : Byte} {p : List Byte}

/-- A STAGE request past its transaction, store and supply checks. -/
theorem State.stage_accepts {number : Nat} (a : s.accepts number) (ident : Nat) (op : StagedOp) (effect : StageEffect) :
    (s.executingNow kind tag p).stage number ident op effect = match effect with
    | .refuse r => (s.executingNow kind tag p).reply (bare r)
    | .add => (s.executingNow kind tag p).capStage ident (s.txn.staging ++ [op])
    | .replace =>
      (s.executingNow kind tag p).capStage ident (s.txn.staging.map (fun x => if opIdent x = ident then op else x))
    | .remove => (s.executingNow kind tag p).acceptStage (s.txn.staging.filter (fun x => opIdent x ≠ ident)) := by
  obtain ⟨a1, a2, a3, a4⟩ := a
  unfold State.stage
  rw [if_neg (not_not.2 (show (s.executingNow kind tag p).txn.state = _ from a1)),
    if_neg (not_not.2 (show (s.executingNow kind tag p).txn.number = _ from a2)),
    if_neg (not_not.2 (show (s.executingNow kind tag p).store = _ from a3)),
    if_neg (show ¬(s.executingNow kind tag p).supply.state = _ from a4)]
  rfl

variable (i : isImmediate kind = false) (h : s.executesNow kind tag p)
include h

/-- The list as it would stand, accepted. -/
theorem State.acceptStage_executingNow (ops : List StagedOp) :
    (s.executingNow kind tag p).acceptStage ops = s.staged kind tag p ops := by
  have h' : State.executesNow { s with txn := { s.txn with staging := ops, idleRunning := true } } kind tag p := h
  unfold State.staged
  rw [← State.reply_executingNow h', stagedBytes_eq]
  rfl

include i

/-- A STAGE request whose effect is a list meets the generation check and the capacity check. -/
theorem State.stagesTo_of_execute {ident : Nat} {ops : List StagedOp}
    (e : (s.executingNow kind tag p).execute { kind, tag, payload := p } = (s.executingNow kind tag p).capStage ident ops) :
    s.stagesTo kind tag p ident ops := by
  have en : (s.executingNow kind tag p).entryOf ident = s.entryOf ident := rfl
  have lim : (s.entryOf ident).any (fun e => decide (Config.maxWord ≤ e.gen)) = true
      ↔ ∃ e, s.entryOf ident = some e ∧ 4294967295 ≤ e.gen := by
    rw [Option.any_eq_true]
    simp
  unfold State.stagesTo
  dsimp only
  rw [exec_executed i h, e]
  refine ⟨fun l => ?_, fun l a b => ?_, fun l a => ?_⟩
  · rw [State.capStage, en, if_pos (lim.2 l)]
    exact congrArg _ (State.reply_executingNow h _)
  · rw [stagedBytes_eq] at b
    rw [State.capStage, en, if_neg (mt lim.1 l),
      if_neg (by simp only [Config.stagingOperations, Config.stagingBytes]; omega), State.acceptStage_executingNow h]
  · rw [stagedBytes_eq] at a
    rw [State.capStage, en, if_neg (mt lim.1 l),
      if_pos (by simp only [Config.stagingOperations, Config.stagingBytes]; omega)]
    exact congrArg _ (State.reply_executingNow h _)

end

end Sys2Proof.Machine
end

