-- ==== Sys2Proof/Laws/SteadyStore.lean ====
section
/-! SUPPORT. Steady over the compaction engine, the page switch, the commit and the increment. -/

namespace Sys2Proof.Machine

section
variable {s₀ s : State}

@[simp] theorem Steady.addVictimCount (h : Steady s₀ s) (ident n : Nat) : Steady s₀ (s.addVictimCount ident n) := by
  simp [State.addVictimCount, h]

@[simp] theorem Steady.countSuperseded (h : Steady s₀ s) (ident : Nat) (locs : List Loc) :
    Steady s₀ (s.countSuperseded ident locs) := by
  unfold State.countSuperseded
  dsimp only
  split <;> simp [h]

@[simp] theorem Steady.clearDemands (h : Steady s₀ s) : Steady s₀ s.clearDemands := by
  simp [State.clearDemands, h]

@[simp] theorem Steady.endRun (h : Steady s₀ s) : Steady s₀ s.endRun := by
  unfold State.endRun
  dsimp only
  split <;> simp [h]

@[simp] theorem Steady.takeVictim (h : Steady s₀ s) (p : PageIx) : Steady s₀ (s.takeVictim p) := by
  simp [State.takeVictim, h]

@[simp] theorem Steady.choose (h : Steady s₀ s) : Steady s₀ s.choose := by
  unfold State.choose
  repeat' split
  all_goals simp (maxDischargeDepth := 20) [h]

@[simp] theorem Steady.clearingTest (h : Steady s₀ s) : Steady s₀ s.clearingTest := by
  unfold State.clearingTest
  split <;> simp [h]

@[simp] theorem Steady.select (h : Steady s₀ s) : Steady s₀ s.select := by
  unfold State.select
  dsimp only
  repeat' split
  all_goals simp [h]

@[simp] theorem Steady.enterSelect (h : Steady s₀ s) : Steady s₀ s.enterSelect := by
  simp [State.enterSelect, h]

@[simp] theorem Steady.beginRun (h : Steady s₀ s) : Steady s₀ s.beginRun := by
  unfold State.beginRun
  split <;> simp [h]

@[simp] theorem Steady.setDemand (h : Steady s₀ s) : Steady s₀ s.setDemand := by
  simp [State.setDemand, h]

@[simp] theorem Steady.resumeSelect (h : Steady s₀ s) : Steady s₀ s.resumeSelect := by
  unfold State.resumeSelect
  split <;> simp [h]

@[simp] theorem Steady.endWaits (h : Steady s₀ s) : Steady s₀ s.endWaits := by
  simp [State.endWaits, h]

@[simp] theorem Steady.leaveVictim (h : Steady s₀ s) : Steady s₀ s.leaveVictim := by
  unfold State.leaveVictim
  split <;> simp [h]

@[simp] theorem Steady.closeWalk (h : Steady s₀ s) : Steady s₀ s.closeWalk := by
  unfold State.closeWalk
  exact h.endWaits.clearDemands.endRun

@[simp] theorem Steady.abandonWalk (h : Steady s₀ s) : Steady s₀ s.abandonWalk := by
  simp [State.abandonWalk, h]

@[simp] theorem Steady.exhaustWalk (h : Steady s₀ s) (failed : PageIx) : Steady s₀ (s.exhaustWalk failed) := by
  simp (maxDischargeDepth := 20) [State.exhaustWalk, h]

@[simp] theorem Steady.starveWalk (h : Steady s₀ s) : Steady s₀ s.starveWalk := by
  simp (maxDischargeDepth := 20) [State.starveWalk, h]

@[simp] theorem Steady.markReadOnly (h : Steady s₀ s) : Steady s₀ s.markReadOnly := by
  unfold State.markReadOnly
  split <;> simp [h]

@[simp] theorem Steady.stopEngine (h : Steady s₀ s) : Steady s₀ s.stopEngine := by
  unfold State.stopEngine
  repeat' split
  all_goals simp (maxDischargeDepth := 20) [h]

@[simp] theorem Steady.becomeReadOnly (h : Steady s₀ s) : Steady s₀ s.becomeReadOnly := by
  unfold State.becomeReadOnly
  split
  · exact h.markReadOnly.stopEngine
  · exact h.markReadOnly
  all_goals exact h

@[simp] theorem Steady.openFor (h : Steady s₀ s) (who : Requester) (p : PageIx) (sequence : Nat) :
    Steady s₀ (s.openFor who p sequence) := by
  simp (maxDischargeDepth := 20) [State.openFor, h]

@[simp] theorem Steady.spendSequence (h : Steady s₀ s) (sequence : Nat) : Steady s₀ (s.spendSequence sequence) := by
  unfold State.spendSequence
  split <;> simp [h]

@[simp] theorem Steady.lowWater (h : Steady s₀ s) : Steady s₀ s.lowWater := by
  unfold State.lowWater
  split <;> simp [h]

@[simp] theorem Steady.switchTo (h : Steady s₀ s) (who : Requester) (p : PageIx) (sequence : Nat) :
    Steady s₀ (s.switchTo who p sequence) := by
  simp (maxDischargeDepth := 20) [State.switchTo, h]

theorem State.landHeader_sound (h : s.sound) (p : PageIx) (w : CellWord) (o : ArrayOutcome) :
    (s.landHeader p w o).sound := by
  have k := (Steady.refl (s.landCell p 1 w o)).sound (State.landCell_sound h p 1 w o)
  cases o
  · exact ((Steady.refl _).raiseUsed _ _).sound k
  · exact Steady.sound (steady_mk.2 (steady_parts.2 ((Steady.refl _).setPage _ _))) k

theorem Steady.pageSwitch {t : State} (h : Steady s₀ s) (who : Requester) (e : s.pageSwitch who = some t) :
    Steady s₀ t := by
  unfold State.pageSwitch at e
  split at e
  · exact Option.some.inj e ▸ h.switchTo _ _ _
  · cases e

@[simp] theorem Steady.setCommit (h : Steady s₀ s) (c : Option CommitRecord) : Steady s₀ (s.setCommit c) := by
  simp [State.setCommit, h]

@[simp] theorem Steady.dropCommit (h : Steady s₀ s) : Steady s₀ s.dropCommit := by
  simp [State.dropCommit, h]

theorem Txn.tidy_number {x : Txn} {n : Nat} (h : x.tidy) : Txn.tidy { x with nextNumber := n } := h

theorem Txn.tidy_committing {x : Txn} (h : x.tidy) : Txn.tidy { x with state := .committing, idleRunning := false } := by
  obtain ⟨_, _, c⟩ := h
  exact ⟨by simp, by simp, c⟩

theorem Txn.tidy_reopened {x : Txn} (h : x.tidy) : Txn.tidy { x with state := .opened, idleRunning := true } := by
  obtain ⟨_, _, c⟩ := h
  exact ⟨by simp, by simp, c⟩

@[simp] theorem Steady.refuseCommit (h : Steady s₀ s) (r : Result) : Steady s₀ (s.refuseCommit r) := by
  unfold State.refuseCommit
  exact (steady_mk.2 (h.dropCommit.withTxn Txn.tidy_reopened)).reply _

@[simp] theorem Steady.failCommit (h : Steady s₀ s) (c : CommitRecord) (r : Result) :
    Steady s₀ (s.failCommit c r) := by
  simp (maxDischargeDepth := 20) [State.failCommit, h]

@[simp] theorem Steady.admitCommit (h : Steady s₀ s) (c : CommitRecord) : Steady s₀ (s.admitCommit c) := by
  unfold State.admitCommit
  repeat' split
  all_goals simp (maxDischargeDepth := 20) [h]

@[simp] theorem Steady.beginCommit (h : Steady s₀ s) : Steady s₀ s.beginCommit := by
  unfold State.beginCommit
  dsimp only
  split
  · exact Steady.setCommit (steady_mk.2 (h.withTxn Txn.tidy_committing)) _
  · exact (Steady.setCommit (steady_mk.2 (h.withTxn Txn.tidy_committing)) _).admitCommit _

@[simp] theorem Steady.resumeCommit (h : Steady s₀ s) (c : CommitRecord) : Steady s₀ (s.resumeCommit c) := by
  unfold State.resumeCommit
  split <;> simp [h]

@[simp] theorem Steady.reserve (h : Steady s₀ s) (p : PageIx) (words : List CellWord) :
    Steady s₀ (s.reserve p words).2 := by
  simp [State.reserve, h]

@[simp] theorem Steady.grantCommit (h : Steady s₀ s) (c : CommitRecord) : Steady s₀ (s.grantCommit c) := by
  unfold State.grantCommit
  split
  · exact h.startCell _ _
  · split
    · exact ((h.reserve _ _).setCommit _).startCell _ _
    · split
      · exact (h.pageSwitch _ (by assumption)).setCommit _
      · split <;> simp (maxDischargeDepth := 20) [h]

/-- Steady along a fold whose every step keeps it. -/
theorem Steady.foldl {α : Type} {f : State → α → State} (hf : ∀ t x, Steady s₀ t → Steady s₀ (f t x)) (xs : List α)
    (h : Steady s₀ s) : Steady s₀ (xs.foldl f s) := by
  induction xs generalizing s with
  | nil => exact h
  | cons x xs ih => exact ih (hf _ _ h)

@[simp] theorem Steady.applyOp (h : Steady s₀ s) (c : CommitRecord) (x : StagedOp × CommitItem) :
    Steady s₀ (State.applyOp c s x) := by
  unfold State.applyOp
  split
  · dsimp only
    split <;> simp (maxDischargeDepth := 20) [h]
  · exact h

@[simp] theorem Steady.applyCommit (h : Steady s₀ s) (c : CommitRecord) : Steady s₀ (s.applyCommit c) := by
  unfold State.applyCommit
  extract_lets _ _ t u
  have k : Steady s₀ t := h.foldl (fun _ _ k => k.applyOp _ _) _
  clear_value t
  have k' : Steady s₀ u := steady_mk.2 (steady_parts.2 k)
  exact k'.dropCommit.endTxn.reply _

@[simp] theorem Steady.continueCommit (h : Steady s₀ s) (c : CommitRecord) : Steady s₀ (s.continueCommit c) := by
  simp [State.continueCommit, h]

@[simp] theorem Steady.attemptDone (h : Steady s₀ s) (c : CommitRecord) (r : Run) :
    Steady s₀ (s.attemptDone c r) := by
  unfold State.attemptDone
  dsimp only
  split <;> simp (maxDischargeDepth := 20) [h]

@[simp] theorem Steady.exhaustCommit (h : Steady s₀ s) (failed : PageIx) : Steady s₀ (s.exhaustCommit failed) := by
  simp (maxDischargeDepth := 20) [State.exhaustCommit, h]

@[simp] theorem Steady.stopAbandoned (h : Steady s₀ s) : Steady s₀ s.stopAbandoned := by
  simp [State.stopAbandoned, h]

@[simp] theorem Steady.commitCellDone (h : Steady s₀ s) (c : CommitRecord) (outcome : ArrayOutcome) :
    Steady s₀ (s.commitCellDone c outcome) := by
  unfold State.commitCellDone
  dsimp only
  repeat' split
  all_goals simp (maxDischargeDepth := 20) [h]

@[simp] theorem Steady.commitHeaderDone (h : Steady s₀ s) (c : CommitRecord) : Steady s₀ (s.commitHeaderDone c) := by
  unfold State.commitHeaderDone
  split <;> simp [h]

@[simp] theorem Steady.abandonCommit (h : Steady s₀ s) (c : CommitRecord) : Steady s₀ (s.abandonCommit c) := by
  unfold State.abandonCommit
  split <;> simp [h]

@[simp] theorem Steady.cautionCommit (h : Steady s₀ s) : Steady s₀ s.cautionCommit := by
  unfold State.cautionCommit
  repeat' split
  all_goals simp (maxDischargeDepth := 20) [h]

@[simp] theorem Steady.setIncrement (h : Steady s₀ s) (i : Option IncrementRecord) :
    Steady s₀ (s.setIncrement i) := by
  simp [State.setIncrement, h]

@[simp] theorem Steady.dropIncrement (h : Steady s₀ s) : Steady s₀ s.dropIncrement := by
  simp [State.dropIncrement, h]

@[simp] theorem Steady.failIncrement (h : Steady s₀ s) (i : IncrementRecord) (r : Result) :
    Steady s₀ (s.failIncrement i r) := by
  simp (maxDischargeDepth := 20) [State.failIncrement, h]

@[simp] theorem Steady.admitIncrement (h : Steady s₀ s) (i : IncrementRecord) : Steady s₀ (s.admitIncrement i) := by
  unfold State.admitIncrement
  split <;> simp [h]

@[simp] theorem Steady.beginIncrement (h : Steady s₀ s) (ident delta need : Nat) :
    Steady s₀ (s.beginIncrement ident delta need) := by
  unfold State.beginIncrement
  dsimp only
  split <;> simp (maxDischargeDepth := 20) [h]

@[simp] theorem Steady.resumeIncrement (h : Steady s₀ s) (i : IncrementRecord) :
    Steady s₀ (s.resumeIncrement i) := by
  unfold State.resumeIncrement
  split <;> simp [h]

@[simp] theorem Steady.grantIncrement (h : Steady s₀ s) (i : IncrementRecord) : Steady s₀ (s.grantIncrement i) := by
  unfold State.grantIncrement
  split
  · exact h.startCell _ _
  · split
    · exact h
    · split
      · exact ((h.reserve _ _).setIncrement _).startCell _ _
      · split
        · exact h.pageSwitch _ (by assumption)
        · exact (h.failIncrement _ _).setDemand

@[simp] theorem Steady.applyFold (h : Steady s₀ s) (ident gen value : Nat) (loc : Loc) :
    Steady s₀ (s.applyFold ident gen value loc) := by
  unfold State.applyFold
  split <;> simp (maxDischargeDepth := 20) [h]

@[simp] theorem Steady.applyBump (h : Steady s₀ s) (ident ordinal value : Nat) (loc : Loc) :
    Steady s₀ (s.applyBump ident ordinal value loc) := by
  unfold State.applyBump
  split <;> simp [h]

@[simp] theorem Steady.incrementDone (h : Steady s₀ s) (i : IncrementRecord) (e : IncrementEntry) (loc : Loc) :
    Steady s₀ (s.incrementDone i e loc) := by
  unfold State.incrementDone
  split <;> simp (maxDischargeDepth := 20) [h]

@[simp] theorem Steady.exhaustIncrement (h : Steady s₀ s) (failed : PageIx) :
    Steady s₀ (s.exhaustIncrement failed) := by
  simp (maxDischargeDepth := 20) [State.exhaustIncrement, h]

@[simp] theorem Steady.continueIncrement (h : Steady s₀ s) (i : IncrementRecord) :
    Steady s₀ (s.continueIncrement i) := by
  simp [State.continueIncrement, h]

@[simp] theorem Steady.incrementCellDone (h : Steady s₀ s) (i : IncrementRecord) (outcome : ArrayOutcome) :
    Steady s₀ (s.incrementCellDone i outcome) := by
  unfold State.incrementCellDone
  repeat' split
  all_goals simp (maxDischargeDepth := 20) [h]

@[simp] theorem Steady.cautionIncrement (h : Steady s₀ s) : Steady s₀ s.cautionIncrement := by
  unfold State.cautionIncrement
  split <;> simp [h]

@[simp] theorem Steady.setCompaction (h : Steady s₀ s) (c : Compaction) : Steady s₀ (s.setCompaction c) := by
  simp [State.setCompaction, h]

@[simp] theorem Steady.engineAsks (h : Steady s₀ s) (a : Action) (op : Option RequestOp) :
    Steady s₀ (s.engineAsks a op) := by
  simp [State.engineAsks, h]

@[simp] theorem Steady.advance (h : Steady s₀ s) : Steady s₀ s.advance := by
  simp [State.advance, h]

@[simp] theorem Steady.addDrop (h : Steady s₀ s) (ident : Nat) (loc : Loc) : Steady s₀ (s.addDrop ident loc) := by
  simp [State.addDrop, h]

@[simp] theorem Steady.startRelease (h : Steady s₀ s) : Steady s₀ s.startRelease := by
  simp [State.startRelease, h]

@[simp] theorem Steady.walkTally (h : Steady s₀ s) (ident gen : Nat) : Steady s₀ (s.walkTally ident gen) := by
  unfold State.walkTally
  dsimp only
  repeat' split
  all_goals simp (maxDischargeDepth := 20) [h]

theorem Steady.walkOn (n : Nat) (h : Steady s₀ s) : Steady s₀ (walkOn n s) := by
  induction n generalizing s with
  | zero => exact h.startRelease
  | succ n ih =>
    unfold Machine.walkOn
    repeat' split
    · exact h.startRelease
    · exact ih h.advance
    · exact ih (h.addVictimCount _ _).advance
    · exact ih (h.addDrop _ _).advance
    · exact h.engineAsks _ _
    · exact h.walkTally _ _
    · exact h.startRelease

@[simp] theorem Steady.walk (h : Steady s₀ s) : Steady s₀ s.walk := h.walkOn _

@[simp] theorem Steady.walkNext (h : Steady s₀ s) : Steady s₀ s.walkNext := by
  simp [State.walkNext, h]

@[simp] theorem Steady.placeEngineRun (h : Steady s₀ s) (words : List CellWord) (a : Action) :
    Steady s₀ (s.placeEngineRun words a) := by
  unfold State.placeEngineRun
  split
  · exact Steady.startCell (steady_mk.2 (steady_parts.2 (h.reserve _ _))) _ _
  · split
    · exact h.pageSwitch _ (by assumption)
    · exact h.starveWalk

@[simp] theorem Steady.lapseFold (h : Steady s₀ s) : Steady s₀ s.lapseFold := by
  simp (maxDischargeDepth := 20) [State.lapseFold, h]

@[simp] theorem Steady.grantStep (h : Steady s₀ s) : Steady s₀ s.grantStep := by
  unfold State.grantStep
  dsimp only
  repeat' split
  all_goals first
    | exact h
    | exact h.pageSwitch _ (by assumption)
    | simp (maxDischargeDepth := 20) [h]

@[simp] theorem Steady.grantCompaction (h : Steady s₀ s) : Steady s₀ s.grantCompaction := by
  unfold State.grantCompaction
  split <;> simp [h]

@[simp] theorem Steady.surveyRead (h : Steady s₀ s) (victim : PageIx) (words : List CellWord) :
    Steady s₀ (s.surveyRead victim words) := by
  unfold State.surveyRead
  dsimp only
  split <;> simp (maxDischargeDepth := 20) [h]

@[simp] theorem Steady.copyRead (h : Steady s₀ s) (words : List CellWord) : Steady s₀ (s.copyRead words) := by
  unfold State.copyRead
  split <;> simp [h]

@[simp] theorem Steady.compactionRead (h : Steady s₀ s) (words : List CellWord) :
    Steady s₀ (s.compactionRead words) := by
  unfold State.compactionRead
  repeat' split
  all_goals simp (maxDischargeDepth := 20) [h]

@[simp] theorem Steady.versionCopied (h : Steady s₀ s) (ident cells : Nat) (original copy : Loc) :
    Steady s₀ (s.versionCopied ident cells original copy) := by
  unfold State.versionCopied
  repeat' split
  all_goals simp (maxDischargeDepth := 20) [h]

@[simp] theorem Steady.bumpCopied (h : Steady s₀ s) (ident ordinal : Nat) (original copy : Loc) :
    Steady s₀ (s.bumpCopied ident ordinal original copy) := by
  unfold State.bumpCopied
  dsimp only
  repeat' split
  all_goals simp (maxDischargeDepth := 20) [h]

@[simp] theorem Steady.copyDone (h : Steady s₀ s) (victim : PageIx) (r : SurveyRec) (copy : Loc) :
    Steady s₀ (s.copyDone victim r copy) := by
  unfold State.copyDone
  repeat' split
  all_goals simp (maxDischargeDepth := 20) [h]

@[simp] theorem Steady.foldDone (h : Steady s₀ s) (r : SurveyRec) (f : FoldEntry) (loc : Loc) :
    Steady s₀ (s.foldDone r f loc) := by
  unfold State.foldDone
  repeat' split
  all_goals simp [h]

@[simp] theorem Steady.settleDrop (h : Steady s₀ s) (d : Nat × Loc) : Steady s₀ (s.settleDrop d) := by
  unfold State.settleDrop
  split
  · exact h
  · split
    · exact steady_mk.2 ((h.subLive _ _).withDirectory directorySorted_filter)
    · exact h

@[simp] theorem Steady.releaseDone (h : Steady s₀ s) : Steady s₀ s.releaseDone := by
  unfold State.releaseDone
  exact Steady.engineAsks (steady_mk.2 (steady_parts.2 (h.foldl (fun _ _ k => k.settleDrop _) _))) _ _

@[simp] theorem Steady.engineEntryDone (h : Steady s₀ s) (loc : Loc) : Steady s₀ (s.engineEntryDone loc) := by
  unfold State.engineEntryDone
  dsimp only
  repeat' split
  all_goals simp (maxDischargeDepth := 20) [h]

@[simp] theorem Steady.compactionCellDone (h : Steady s₀ s) (outcome : ArrayOutcome) :
    Steady s₀ (s.compactionCellDone outcome) := by
  unfold State.compactionCellDone
  dsimp only
  repeat' split
  all_goals simp (maxDischargeDepth := 20) [h]

@[simp] theorem Steady.selectAgain (h : Steady s₀ s) : Steady s₀ s.selectAgain := by
  unfold State.selectAgain
  split <;> simp [h]

@[simp] theorem Steady.compactionHeaderDone (h : Steady s₀ s) : Steady s₀ s.compactionHeaderDone := by
  unfold State.compactionHeaderDone
  repeat' split
  all_goals simp (maxDischargeDepth := 20) [h]

@[simp] theorem Steady.applyVictimCounts (h : Steady s₀ s) : Steady s₀ s.applyVictimCounts :=
  steady_mk.2 (h.withDirectory (directorySorted_map fun _ => rfl))

@[simp] theorem Steady.victimComplete (h : Steady s₀ s) (reclaim : Nat) : Steady s₀ (s.victimComplete reclaim) := by
  unfold State.victimComplete
  dsimp only
  split <;> simp (maxDischargeDepth := 20) [h]

@[simp] theorem Steady.victimErased (h : Steady s₀ s) (v : PageIx) (count : Nat) :
    Steady s₀ (s.victimErased v count) := by
  simp (maxDischargeDepth := 20) [State.victimErased, h]

@[simp] theorem Steady.victimRetired (h : Steady s₀ s) (v : PageIx) : Steady s₀ (s.victimRetired v) := by
  unfold State.victimRetired
  dsimp only
  split <;> simp (maxDischargeDepth := 20) [h]

@[simp] theorem Steady.compactionErased (h : Steady s₀ s) (p : PageIx) (count : Nat) (outcome : ArrayOutcome) :
    Steady s₀ (s.compactionErased p count outcome) := by
  unfold State.compactionErased
  repeat' split
  all_goals simp (maxDischargeDepth := 20) [h]

@[simp] theorem Steady.resumeWalk (h : Steady s₀ s) : Steady s₀ s.resumeWalk := by
  unfold State.resumeWalk
  repeat' split
  all_goals simp (maxDischargeDepth := 20) [h]

end

end Sys2Proof.Machine
end

