-- ==== Sys2Proof/Laws/SteadyMount.lean ====
section
/-! SUPPORT. Steady over the mount unit, FORMAT and the request executor. -/

namespace Sys2Proof.Machine

section
variable {s₀ s : State}

/-! ### What a mount resolves -/

theorem placeCurrent_above {i b : Nat} {x : Swept} {xs : List (Nat × Swept)} (hb : b < i) (h : ∀ y ∈ xs, b < y.1) :
    ∀ y ∈ placeCurrent i x xs, b < y.1 := by
  induction xs with
  | nil => simpa [placeCurrent] using hb
  | cons y xs ih =>
    obtain ⟨j, y⟩ := y
    obtain ⟨hf, hd⟩ := List.forall_mem_cons.1 h
    rw [placeCurrent]
    split
    · exact List.forall_mem_cons.2 ⟨hb, List.forall_mem_cons.2 ⟨hf, hd⟩⟩
    · split
      · refine List.forall_mem_cons.2 ⟨?_, hd⟩
        split <;> exact hf
      · exact List.forall_mem_cons.2 ⟨hf, ih hd⟩

theorem placeCurrent_sorted {i : Nat} {x : Swept} {xs : List (Nat × Swept)} (h : xs.Pairwise (fun a b => a.1 < b.1)) :
    (placeCurrent i x xs).Pairwise (fun a b => a.1 < b.1) := by
  induction xs with
  | nil => simp [placeCurrent]
  | cons y xs ih =>
    obtain ⟨j, y⟩ := y
    obtain ⟨hf, hd⟩ := List.pairwise_cons.1 h
    rw [placeCurrent]
    split
    · refine List.pairwise_cons.2 ⟨List.forall_mem_cons.2 ⟨by assumption, fun z hz => ?_⟩, h⟩
      exact Nat.lt_trans (by assumption) (hf z hz)
    · split
      · refine List.pairwise_cons.2 ⟨fun z hz => ?_, hd⟩
        have := hf z hz
        split <;> exact this
      · exact List.pairwise_cons.2 ⟨placeCurrent_above (by omega) hf, ih hd⟩

theorem currentEntries_sorted (xs : List Swept) : (currentEntries xs).Pairwise (fun a b => a.1 < b.1) := by
  have key : ∀ (xs : List Swept) (acc : List (Nat × Swept)), acc.Pairwise (fun a b => a.1 < b.1) →
      (xs.foldl (fun acc x => match versionOf x.entry with
        | some (ident, _, _) => placeCurrent ident x acc
        | none => acc) acc).Pairwise (fun a b => a.1 < b.1) := by
    intro xs
    induction xs with
    | nil => exact fun _ h => h
    | cons x xs ih =>
      intro acc h
      refine ih _ ?_
      dsimp only
      split
      · exact placeCurrent_sorted h
      · exact h
  exact key xs [] List.Pairwise.nil

/-- The directory of a mount stands in identifier order (R8, R129). -/
theorem resolve_sorted (closing : Option (List PageIx)) (scans : List PageScan) :
    directorySorted (resolve closing scans).directory := by
  simp only [directorySorted, resolve, List.map_map, List.pairwise_map, Function.comp_def, formEntry]
  exact (currentEntries_sorted _).sublist (List.take_sublist _ _)

theorem mountSorted_none : mountSorted none := fun _ _ h => nomatch h

theorem mountSorted_start (closing : Option (List PageIx)) : mountSorted (some (MountRecord.start closing)) := by
  intro x r h k
  cases h
  cases k

/-- A mount record that keeps its result keeps the order. -/
theorem mountSorted_result {a : Option MountRecord} {m n : MountRecord} (ha : a = some m) (e : n.result = m.result)
    (h : mountSorted a) : mountSorted (some n) := by
  intro x r hx hr
  cases hx
  exact h m r ha (e ▸ hr)

theorem Steady.setMount (h : Steady s₀ s) {m : Option MountRecord} (k : mountSorted s.mount → mountSorted m) :
    Steady s₀ (s.setMount m) := steady_mk.2 (h.withMount k)

@[simp] theorem Steady.settlePages (h : Steady s₀ s) : Steady s₀ s.settlePages := by
  unfold State.settlePages
  repeat' split
  all_goals simp (maxDischargeDepth := 20) [h]

/-- The results of a mount are in order, so the directory they become is. -/
theorem Steady.presentMount (h : Steady s₀ s) (r : MountResult)
    (k : mountSorted s.mount → directorySorted r.directory) : Steady s₀ (s.presentMount r) := by
  unfold State.presentMount
  dsimp only
  have a := steady_mk.1 (Steady.settlePages (s₀ := s₀) (s := { s with
    directory := r.directory
    carry := r.carry
    txn := { s.txn with nextNumber := r.nextNumber }
    array := { s.array with nextSequence := r.nextSequence, faulted := [] } })
    ⟨h.pending, h.cells, fun q => ⟨k (h.directory q).2, (h.directory q).2⟩, h.link, h.notices, h.txn⟩)
  exact ⟨a.pending, a.cells, fun q => ⟨(a.directory q).1, mountSorted_none⟩, a.link, a.notices, a.txn⟩

theorem Steady.setNotices (h : Steady s₀ s) {u : NoticeUnit} (k : s.notices.kept s.muted → u.kept s.muted) :
    Steady s₀ { s with notices := u } := steady_mk.2 (h.withNotices k)

@[simp] theorem Steady.raiseStart (h : Steady s₀ s) (summary : Summary) : Steady s₀ (s.raiseStart summary) := by
  unfold State.raiseStart
  extract_lets report _ t u
  have k : Steady s₀ t := h.setNotices id
  have k' : Steady s₀ u := k.raise _
  clear_value u t
  split
  · exact (k'.setNotices (u := { u.notices with deferred := false }) id).raise _
  · exact k'

@[simp] theorem Steady.closeFormat (h : Steady s₀ s) (summary : Summary) : Steady s₀ (s.closeFormat summary) := by
  unfold State.closeFormat
  extract_lets _ _ _ t
  have k : Steady s₀ t := steady_mk.2 (h.withNotices id)
  exact k.reply _

@[simp] theorem Steady.mountDemand (h : Steady s₀ s) : Steady s₀ s.mountDemand := by
  unfold State.mountDemand
  split <;> simp [h]

theorem Steady.settleMount (h : Steady s₀ s) (m : MountRecord) (r : MountResult)
    (k : mountSorted s.mount → directorySorted r.directory) : Steady s₀ (s.settleMount m r) := by
  have k := (h.presentMount r k).mountDemand
  unfold State.settleMount
  dsimp only
  split
  · exact (k.raiseStart _).beginRun
  · exact (k.closeFormat _).beginRun

theorem Steady.mountNext (h : Steady s₀ s) (m : MountRecord) (k : mountSorted s.mount → mountSorted (some m)) :
    Steady s₀ (s.mountNext m) := by
  unfold State.mountNext
  split
  · exact (h.setMount k).request _ _
  · rename_i r _ _
    exact h.settleMount _ _ fun q => k q m r rfl (by assumption)
  · exact h.setMount k

@[simp] theorem Steady.resolveMount (h : Steady s₀ s) (m : MountRecord) : Steady s₀ (s.resolveMount m) := by
  unfold State.resolveMount
  refine Steady.mountNext (h.foldl (fun _ _ k => k.setPage _ _) _) _ fun _ x r hx hr => ?_
  cases hx
  cases hr
  exact resolve_sorted _ _

@[simp] theorem Steady.beginMount (h : Steady s₀ s) (closing : Option (List PageIx)) :
    Steady s₀ (s.beginMount closing) := (h.setMount fun _ => mountSorted_start _).request _ _

@[simp] theorem Steady.grantMount (h : Steady s₀ s) : Steady s₀ s.grantMount := by
  unfold State.grantMount
  repeat' split
  all_goals simp (maxDischargeDepth := 20) [h]

@[simp] theorem Steady.mountRead (h : Steady s₀ s) (words : List CellWord) : Steady s₀ (s.mountRead words) := by
  unfold State.mountRead
  split
  · exact h
  · rename_i m hm
    have key : ∀ n : MountRecord, n.result = m.result → Steady s₀ (if n.readIndex < 256 then
        (s.setMount (some n)).request .mount (some .read) else s.resolveMount n) := by
      intro n hn
      split
      · exact (h.setMount (mountSorted_result hm hn)).request _ _
      · exact h.resolveMount _
    dsimp only
    exact key _ (by split <;> rfl)

@[simp] theorem Steady.mountErased (h : Steady s₀ s) (p : PageIx) (count : Nat) (o : ArrayOutcome) :
    Steady s₀ (s.mountErased p count o) := by
  unfold State.mountErased
  split
  · exact h
  · rename_i m hm
    cases o
    · exact Steady.mountNext (h.becomeErased _ _) _ (mountSorted_result (m := m) hm rfl)
    · dsimp only
      split
      · exact Steady.mountNext (h.becomeRetired _) _ (mountSorted_result (m := m) hm rfl)
      · exact Steady.mountNext h _ (mountSorted_result hm rfl)

@[simp] theorem Steady.setFormat (h : Steady s₀ s) (f : Option FormatRecord) : Steady s₀ (s.setFormat f) := by
  simp [State.setFormat, h]

@[simp] theorem Steady.closeErases (h : Steady s₀ s) (f : FormatRecord) : Steady s₀ (s.closeErases f) := by
  unfold State.closeErases
  refine Steady.beginMount (steady_mk.2 ?_) _
  exact ⟨h.pending, h.cells, fun q => ⟨directorySorted_nil, (h.directory q).2⟩, h.link, h.notices, h.txn⟩

@[simp] theorem Steady.formatErase (h : Steady s₀ s) (f : FormatRecord) (stage : FormatStage) :
    Steady s₀ (s.formatErase f stage) := by
  simp [State.formatErase, h]

@[simp] theorem Steady.nextFormatErase (h : Steady s₀ s) (f : FormatRecord) : Steady s₀ (s.nextFormatErase f) := by
  unfold State.nextFormatErase
  repeat' split
  all_goals simp (maxDischargeDepth := 20) [h]

@[simp] theorem Steady.nextFallback (h : Steady s₀ s) (f : FormatRecord) : Steady s₀ (s.nextFallback f) := by
  unfold State.nextFallback
  split <;> simp [h]

@[simp] theorem Steady.beginFormat (h : Steady s₀ s) : Steady s₀ s.beginFormat := by
  unfold State.beginFormat
  have k : ∀ f, Steady s₀ (({ s with store := .formatting }.setFormat f).stopEngine) := fun f =>
    (Steady.setFormat (steady_mk.2 (steady_parts.2 h)) f).stopEngine
  dsimp only
  split
  · exact (k _).closeErases _
  · exact (k _).request _ _

@[simp] theorem Steady.grantMark (h : Steady s₀ s) (f : FormatRecord) : Steady s₀ (s.grantMark f) := by
  unfold State.grantMark
  split
  · exact ((h.reserve _ _).setFormat _).startCell _ _
  · split
    · dsimp only
      split
      · exact (h.setFormat _).switchTo _ _ _
      · exact ((h.setFormat _).openFor _ _ _).lowWater
    · split
      · exact h.pageSwitch _ (by assumption)
      · exact h.nextFallback _

@[simp] theorem Steady.grantFormat (h : Steady s₀ s) (f : FormatRecord) : Steady s₀ (s.grantFormat f) := by
  unfold State.grantFormat
  split <;> simp [h]

@[simp] theorem Steady.formatCellDone (h : Steady s₀ s) (f : FormatRecord) (o : ArrayOutcome) :
    Steady s₀ (s.formatCellDone f o) := by
  unfold State.formatCellDone
  repeat' split
  · exact h
  · exact h.nextFormatErase _
  · have k : ∀ r g, Steady s₀ ((s.faultRun r).setFormat g) := fun r g => (h.faultRun r).setFormat g
    dsimp only
    repeat' split
    · exact (k _ _).request _ _
    · exact Steady.reply (steady_mk.2 (steady_parts.2 ((((k _ _).sealOpenPage).raise _).setFormat _))) _
    · exact (((k _ _).sealOpenPage).raise _).nextFallback _

@[simp] theorem Steady.formatHeaderDone (h : Steady s₀ s) : Steady s₀ s.formatHeaderDone := by
  simp [State.formatHeaderDone, h]

@[simp] theorem Steady.formatPageDone (h : Steady s₀ s) (f : FormatRecord) (p : PageIx) :
    Steady s₀ (s.formatPageDone f p) := by
  unfold State.formatPageDone
  dsimp only
  repeat' split
  all_goals simp (maxDischargeDepth := 20) [h]

@[simp] theorem Steady.formatErased (h : Steady s₀ s) (f : FormatRecord) (p : PageIx) (count : Nat) (outcome : ArrayOutcome) :
    Steady s₀ (s.formatErased f p count outcome) := by
  unfold State.formatErased
  repeat' split
  all_goals simp (maxDischargeDepth := 20) [h]

@[simp] theorem Steady.takeRead (h : Steady s₀ s) (payload : List Byte) : Steady s₀ (s.takeRead payload) := by
  unfold State.takeRead
  repeat' split
  all_goals simp (maxDischargeDepth := 20) [h]

@[simp] theorem Steady.grantBlobRead (h : Steady s₀ s) (ident : Nat) : Steady s₀ (s.grantBlobRead ident) := by
  unfold State.grantBlobRead
  split <;> simp [h]

@[simp] theorem Steady.blobRead (h : Steady s₀ s) (ident : Nat) (words : List CellWord) :
    Steady s₀ (s.blobRead ident words) := by
  unfold State.blobRead
  dsimp only
  repeat' split
  all_goals simp (maxDischargeDepth := 20) [h]

@[simp] theorem Steady.takeList (h : Steady s₀ s) (payload : List Byte) : Steady s₀ (s.takeList payload) := by
  unfold State.takeList
  split <;> simp [h]

@[simp] theorem Steady.takeWear (h : Steady s₀ s) (payload : List Byte) : Steady s₀ (s.takeWear payload) := by
  unfold State.takeWear
  split <;> simp [h]

@[simp] theorem Steady.takeGetReport (h : Steady s₀ s) (payload : List Byte) :
    Steady s₀ (s.takeGetReport payload) := by
  unfold State.takeGetReport
  split <;> simp [h]

theorem identUsed_none {ops : List StagedOp} {ident : Nat} (e : stagedOn ops ident = none) :
    ident ∉ ops.map opIdent := by
  simpa [stagedOn] using e

/-- What the staging list becomes keeps the limits of R25. -/
def stageFits (ops : List StagedOp) : Prop := ops.length ≤ 16 ∧ stagedBytes ops ≤ 1024 ∧ (ops.map opIdent).Nodup

theorem Txn.tidy_staged {x : Txn} {ops : List StagedOp} (_ : x.tidy) (o : x.state = .opened) (k : stageFits ops) :
    Txn.tidy { x with staging := ops, idleRunning := true } := by
  refine ⟨?_, ?_, k⟩
  · intro q
    simp_all
  · simpa using o

theorem Steady.acceptStage (h : Steady s₀ s) (ops : List StagedOp) (o : s.txn.state = .opened)
    (k : s.txn.tidy → stageFits ops) : Steady s₀ (s.acceptStage ops) := by
  unfold State.acceptStage
  exact Steady.reply (steady_mk.2 (h.withTxn fun q => Txn.tidy_staged q o (k q))) _

theorem Steady.capStage (h : Steady s₀ s) (ident : Nat) (ops : List StagedOp) (o : s.txn.state = .opened)
    (k : s.txn.tidy → (ops.map opIdent).Nodup) : Steady s₀ (s.capStage ident ops) := by
  unfold State.capStage
  split
  · exact h.reply _
  · split
    · exact h.reply _
    · rename_i c
      simp only [Config.stagingOperations, Config.stagingBytes, not_or, Nat.not_lt] at c
      exact h.acceptStage ops o fun q => ⟨c.1, c.2, k q⟩

theorem map_replace_ident (ops : List StagedOp) (op : StagedOp) :
    (ops.map (fun x => if opIdent x = opIdent op then op else x)).map opIdent = ops.map opIdent := by
  rw [List.map_map]
  refine List.map_congr_left fun x _ => ?_
  by_cases c : opIdent x = opIdent op <;> simp [c]

theorem stagedBytes_filter (ops : List StagedOp) (p : StagedOp → Bool) : stagedBytes (ops.filter p) ≤ stagedBytes ops :=
  (List.filter_sublist.map opBytes).sum_le_sum (by simp)

/-- A kind check's effect on the list, and what it presumes of the identifier. -/
def StageEffect.fitsList (e : StageEffect) (ops : List StagedOp) (ident : Nat) : Prop :=
  e = .add → stagedOn ops ident = none

theorem Steady.stage (h : Steady s₀ s) (number ident : Nat) (op : StagedOp) (e : StageEffect) (hi : opIdent op = ident)
    (k : e.fitsList s.txn.staging ident) : Steady s₀ (s.stage number ident op e) := by
  subst hi
  unfold State.stage
  split
  · exact h.reply _
  · rename_i o
    have o : s.txn.state = .opened := by simpa using o
    repeat' split
    · exact h.reply _
    · exact h.reply _
    · exact h.reply _
    · exact h.reply _
    · refine h.capStage _ _ o fun q => ?_
      rw [List.map_append, List.nodup_append]
      refine ⟨q.2.2.2.2, by simp, fun a ha b hb => ?_⟩
      have := identUsed_none (k rfl)
      simp_all
      rintro rfl
      exact absurd ha (by simpa using this)
    · refine h.capStage _ _ o fun q => ?_
      rw [map_replace_ident]
      exact q.2.2.2.2
    · refine h.acceptStage _ o fun q => ⟨?_, ?_, ?_⟩
      · exact (List.length_filter_le _ _).trans q.2.2.1
      · exact (stagedBytes_filter _ _).trans q.2.2.2.1
      · exact q.2.2.2.2.sublist (List.filter_sublist.map _)

theorem writeEffect_fits (s : State) (ident : Nat) : (s.writeEffect ident).fitsList s.txn.staging ident := by
  unfold StageEffect.fitsList State.writeEffect
  intro e
  repeat' split at e
  all_goals first
    | exact Option.not_isSome_iff_eq_none.1 (by assumption)
    | exact Option.isNone_iff_eq_none.1 (by assumption)
    | cases e

theorem tallyEffect_fits (s : State) (ident : Nat) : (s.tallyEffect ident).fitsList s.txn.staging ident := by
  unfold StageEffect.fitsList State.tallyEffect
  intro e
  repeat' split at e
  all_goals first
    | exact Option.not_isSome_iff_eq_none.1 (by assumption)
    | exact Option.isNone_iff_eq_none.1 (by assumption)
    | cases e

theorem deleteEffect_fits (s : State) (ident : Nat) : (s.deleteEffect ident).fitsList s.txn.staging ident := by
  unfold StageEffect.fitsList State.deleteEffect
  intro e
  repeat' split at e
  all_goals first
    | exact Option.not_isSome_iff_eq_none.1 (by assumption)
    | exact Option.isNone_iff_eq_none.1 (by assumption)
    | cases e

@[simp] theorem Steady.takeStageWrite (h : Steady s₀ s) (payload : List Byte) : Steady s₀ (s.takeStageWrite payload) := by
  unfold State.takeStageWrite
  split
  · exact h.reply _
  · exact h.stage _ _ _ _ rfl (writeEffect_fits _ _)

@[simp] theorem Steady.takeStageDelete (h : Steady s₀ s) (payload : List Byte) :
    Steady s₀ (s.takeStageDelete payload) := by
  unfold State.takeStageDelete
  split
  · exact h.reply _
  · exact h.stage _ _ _ _ rfl (deleteEffect_fits _ _)

@[simp] theorem Steady.takeStageTally (h : Steady s₀ s) (payload : List Byte) : Steady s₀ (s.takeStageTally payload) := by
  unfold State.takeStageTally
  split
  · exact h.reply _
  · exact h.stage _ _ _ _ rfl (tallyEffect_fits _ _)

@[simp] theorem Steady.takeBegin (h : Steady s₀ s) (payload : List Byte) : Steady s₀ (s.takeBegin payload) := by
  unfold State.takeBegin
  repeat' split
  all_goals first
    | exact h.reply _
    | exact Steady.reply (steady_mk.2 (h.withTxn fun _ => by simp [Txn.tidy, stagedBytes])) _

@[simp] theorem Steady.takeCommit (h : Steady s₀ s) (payload : List Byte) : Steady s₀ (s.takeCommit payload) := by
  unfold State.takeCommit
  repeat' split
  all_goals simp (maxDischargeDepth := 20) [h]

@[simp] theorem Steady.takeIncrement (h : Steady s₀ s) (payload : List Byte) :
    Steady s₀ (s.takeIncrement payload) := by
  unfold State.takeIncrement
  repeat' split
  all_goals simp (maxDischargeDepth := 20) [h]

@[simp] theorem Steady.takeCompact (h : Steady s₀ s) (payload : List Byte) : Steady s₀ (s.takeCompact payload) := by
  unfold State.takeCompact
  split
  · exact h.reply _
  · split
    · exact h.reply _
    · split
      · exact h.reply _
      · exact (Steady.reply (steady_mk.2 (steady_parts.2 h)) _).beginRun

@[simp] theorem Steady.takeFormat (h : Steady s₀ s) (payload : List Byte) : Steady s₀ (s.takeFormat payload) := by
  unfold State.takeFormat
  repeat' split
  all_goals simp (maxDischargeDepth := 20) [h]

@[simp] theorem Steady.execute (h : Steady s₀ s) (r : Request) : Steady s₀ (s.execute r) := by
  unfold State.execute
  split <;> simp [h]

/-- A request that leaves the head of the queue. -/
theorem Steady.take (h : Steady s₀ s) {r : Request} {rest : List Request} (q : s.link.queue = r :: rest) :
    Steady s₀ (s.take r rest) := by
  unfold State.take
  refine Steady.execute (steady_mk.2 (h.withLink (l := { s.link with queue := rest }) fun ⟨a, b⟩ => ⟨?_, b⟩)) _
  rw [q, List.length_cons] at a
  exact (Nat.le_succ _).trans a

theorem Steady.takeRequests (n : Nat) (h : Steady s₀ s) : Steady s₀ (takeRequests n s) := by
  induction n generalizing s with
  | zero => exact h
  | succ n ih =>
    unfold Machine.takeRequests
    split
    · split
      · exact h
      · exact ih (h.take (by assumption))
    · exact h

@[simp] theorem Steady.runExecutor (h : Steady s₀ s) : Steady s₀ s.runExecutor := h.takeRequests _

end

end Sys2Proof.Machine
end

