-- ==== Sys2Proof/Laws/SteadyLink.lean ====
section
/-! SUPPORT. Steady over the link controller, the arbiter, the supply supervisor and the restart. -/

namespace Sys2Proof.Machine

section
variable {s₀ s : State}

theorem Steady.setLink (h : Steady s₀ s) {l : Link} (k : s.link.bounded → l.bounded) :
    Steady s₀ { s with link := l } := steady_mk.2 (h.withLink k)

@[simp] theorem Steady.handleStatus (h : Steady s₀ s) (f : Frame) : Steady s₀ (s.handleStatus f) := by
  unfold State.handleStatus
  split
  · exact h.answer _ _
  · dsimp only
    split
    · exact (h.setLink (l := { s.link with discarded := 0 })
        fun ⟨a, b, c, d, _, e⟩ => ⟨a, b, c, d, Nat.zero_le _, e⟩).answer _ _
    · exact h.answer _ _

@[simp] theorem Steady.handleAbandon (h : Steady s₀ s) (f : Frame) : Steady s₀ (s.handleAbandon f) := by
  unfold State.handleAbandon
  repeat' split
  all_goals simp (maxDischargeDepth := 20) [h]

@[simp] theorem Steady.handleAckNotice (h : Steady s₀ s) (f : Frame) : Steady s₀ (s.handleAckNotice f) := by
  unfold State.handleAckNotice
  split
  · exact h.answer _ _
  · split
    · exact h.answer _ _
    · dsimp only
      refine Steady.answer (Steady.dropUnsent (steady_mk.2 ?_) _) _ _
      refine ⟨h.pending, h.cells, h.directory, h.link, fun q => ?_, h.txn⟩
      obtain ⟨⟨a, b, c, d, e⟩, g⟩ := h.notices q
      refine ⟨⟨?_, b, c, fun n hn => d n (List.mem_of_mem_drop hn), ?_⟩, fun k => by simp [g k]⟩
      · dsimp only
        rw [List.length_drop]
        omega
      · dsimp only
        split
        · exact Nat.zero_le _
        · exact e

@[simp] theorem Steady.handlePollNotice (h : Steady s₀ s) (f : Frame) : Steady s₀ (s.handlePollNotice f) := by
  unfold State.handlePollNotice
  repeat' split
  all_goals simp (maxDischargeDepth := 20) [h]

@[simp] theorem Steady.handleRestart (h : Steady s₀ s) (f : Frame) : Steady s₀ (s.handleRestart f) := by
  unfold State.handleRestart
  split <;> simp [h]

@[simp] theorem Steady.handleQueued (h : Steady s₀ s) (kind : RequestKind) (f : Frame) :
    Steady s₀ (s.handleQueued kind f) := by
  unfold State.handleQueued
  repeat' split
  · exact h.answer _ _
  · exact h.answer _ _
  · exact h.answer _ _
  · exact h.answer _ _
  · rename_i c
    refine h.setLink fun ⟨_, b⟩ => ⟨?_, b⟩
    simp only [Config.requestQueueCapacity, Nat.not_le] at c
    simpa using c

@[simp] theorem Steady.handle (h : Steady s₀ s) (f : Frame) : Steady s₀ (s.handle f) := by
  unfold State.handle
  split <;> simp [h]

@[simp] theorem Steady.countDiscard (h : Steady s₀ s) : Steady s₀ s.countDiscard :=
  h.setLink fun ⟨a, b, c, d, _, e⟩ => ⟨a, b, c, d, Nat.min_le_right _ _, e⟩

@[simp] theorem Steady.takeHeld (h : Steady s₀ s) : Steady s₀ s.takeHeld := by
  unfold State.takeHeld
  repeat' split
  · exact ((h.setLink (l := { s.link with held := none }) id).handle _).runExecutor
  · exact h
  · exact h

@[simp] theorem Steady.deliver (h : Steady s₀ s) (f : Frame) : Steady s₀ (s.deliver f) := by
  unfold State.deliver
  dsimp only
  repeat' split
  · exact (h.takeHeld.handle _).runExecutor
  · exact h.takeHeld.setLink id
  · exact h.takeHeld.countDiscard

@[simp] theorem Steady.hostSends (h : Steady s₀ s) (kind : RequestKind) (tag : Byte) (payload : List Byte) :
    Steady s₀ (s.hostSends kind tag payload) := by
  unfold State.hostSends
  split
  · exact h.deliver _
  · exact h

@[simp] theorem Steady.hunt (h : Steady s₀ s) : Steady s₀ s.hunt :=
  h.setLink fun ⟨a, b, c, d, e, _⟩ => ⟨a, b, c, d, e, by simp⟩

@[simp] theorem Steady.discardFrame (h : Steady s₀ s) : Steady s₀ s.discardFrame := h.hunt.countDiscard

theorem Steady.keep (h : Steady s₀ s) (rx : RxState) (v : Byte) (k : rx ≠ .hunt) : Steady s₀ (s.keep rx v) :=
  h.setLink fun ⟨a, b, c, d, e, _⟩ => ⟨a, b, c, d, e, by simpa using k⟩

@[simp] theorem Steady.frameComplete (h : Steady s₀ s) (bytes : List Byte) : Steady s₀ (s.frameComplete bytes) := by
  unfold State.frameComplete
  dsimp only
  split
  · exact h.hunt.deliver _
  · exact h.discardFrame

@[simp] theorem Steady.goodCharacter (h : Steady s₀ s) (v : Byte) : Steady s₀ (s.goodCharacter v) := by
  unfold State.goodCharacter
  split
  · split
    · exact h.setLink fun ⟨a, b, c, d, e, _⟩ => ⟨a, b, c, d, e, by simp⟩
    · exact h
  · split
    · exact h.discardFrame
    · exact h.keep _ _ (by simp)
  · exact h.keep _ _ (by split <;> simp)
  · dsimp only
    split
    · exact h.frameComplete _
    · exact h.keep _ _ (by simp)

@[simp] theorem Steady.character (h : Steady s₀ s) (v : Byte) (stopHigh : Bool) :
    Steady s₀ (s.character v stopHigh) := by
  unfold State.character
  repeat' split
  all_goals first
    | exact h
    | exact h.goodCharacter _
    | exact h.discardFrame

@[simp] theorem Steady.headSent (h : Steady s₀ s) : Steady s₀ s.headSent := by
  unfold State.headSent
  split
  · exact h
  · rename_i f rest e
    have k : Steady s₀ { s with link := { s.link with transmit := rest } } :=
      h.setLink fun ⟨a, b, c⟩ => ⟨a, by rw [e, List.length_cons] at b; exact (Nat.le_succ _).trans b, c⟩
    dsimp only
    split
    · exact k.takeCause _ rfl
    · exact k

@[simp] theorem Steady.producerPlaces (h : Steady s₀ s) : Steady s₀ s.producerPlaces := by
  unfold State.producerPlaces
  split
  · rename_i room
    split
    · exact h
    · dsimp only
      split
      · exact Steady.placeFrame (steady_mk.2 (h.withLink (by exact id))) _ room
      · exact h.setLink id
    · dsimp only
      split
      · refine Steady.runExecutor (Steady.placeFrame (steady_mk.2 (h.withLink ?_)) _ ?_)
        · exact id
        · exact room
      · exact h.setLink id
    · rename_i rest _
      dsimp only
      have k : Steady s₀ { s with link := { s.link with waiters := rest } } := h.setLink id
      split
      · rename_i more _
        exact Steady.placeFrame (k.setNotices (u := { s.notices with outgoing := more }) id) _ room
      · exact k
  · exact h

@[simp] theorem Steady.grantExecutor (h : Steady s₀ s) : Steady s₀ s.grantExecutor := by
  unfold State.grantExecutor
  split <;> simp [h]

@[simp] theorem Steady.grant (h : Steady s₀ s) (who : Requester) : Steady s₀ (s.grant who) := by
  unfold State.grant
  split <;> simp [h]

@[simp] theorem Steady.readDone (h : Steady s₀ s) (owner : Option Requester) (words : List CellWord) :
    Steady s₀ (s.readDone owner words) := by
  unfold State.readDone
  repeat' split
  all_goals simp (maxDischargeDepth := 20) [h]

@[simp] theorem Steady.cellDone (h : Steady s₀ s) (owner : Option Requester) (outcome : ArrayOutcome) :
    Steady s₀ (s.cellDone owner outcome) := by
  unfold State.cellDone
  repeat' split
  all_goals simp (maxDischargeDepth := 20) [h]

@[simp] theorem Steady.headerDone (h : Steady s₀ s) (owner : Option Requester) : Steady s₀ (s.headerDone owner) := by
  unfold State.headerDone
  repeat' split
  all_goals simp (maxDischargeDepth := 20) [h]

@[simp] theorem Steady.eraseDone (h : Steady s₀ s) (owner : Option Requester) (p : PageIx) (count : Nat) (outcome : ArrayOutcome) :
    Steady s₀ (s.eraseDone owner p count outcome) := by
  unfold State.eraseDone
  repeat' split
  all_goals simp (maxDischargeDepth := 20) [h]

/-- A completed read, program or erase: the array takes the outcome. -/
@[simp] theorem Steady.setFree (h : Steady s₀ s) (n : Nat) : Steady s₀ { s with freeIndex := n } :=
  steady_mk.2 (steady_parts.2 h)

@[simp] theorem Steady.vddFalls (h : Steady s₀ s) : Steady s₀ s.vddFalls := by
  simp [State.vddFalls, h]

/-- The supply's timers and levels change, and RESET_N does not. -/
theorem Steady.setSupply (h : Steady s₀ s) (u : Supply) (e : u.resetNHigh = s.supply.resetNHigh) :
    Steady s₀ { s with supply := u } := steady_mk.2 (e ▸ steady_parts.2 h)

@[simp] theorem Steady.cautionExpires (h : Steady s₀ s) : Steady s₀ s.cautionExpires := by
  unfold State.cautionExpires
  have k := h.setSupply
  exact (((k _ (by rfl)).askSupply _).cautionCommit.cautionIncrement).runExecutor

@[simp] theorem Steady.supplyRecovers (h : Steady s₀ s) : Steady s₀ s.supplyRecovers := by
  unfold State.supplyRecovers
  have k := h.setSupply
  dsimp only
  split
  · exact ((k _ (by rfl)).askSupply _).resumeSelect
  · exact (k _ (by rfl)).resumeSelect

@[simp] theorem Steady.vddRises (h : Steady s₀ s) : Steady s₀ s.vddRises := by
  unfold State.vddRises
  have k := h.setSupply
  dsimp only
  repeat' split
  · exact h
  · exact (k _ (by rfl)).takeCause _ rfl
  · exact k _ (by rfl)

theorem updatedCauses_length {s : State} (r : Restarting) (h : s.notices.bounded) : (s.updatedCauses r).length ≤ 4 := by
  unfold State.updatedCauses
  dsimp only
  repeat' split
  · exact Nat.zero_le _
  · exact h.2.2.2.2
  · rw [List.length_drop]
    omega

@[simp] theorem Steady.proceed (h : Steady s₀ s) (r : Restarting) (b : Bool) : Steady s₀ (s.proceed r b) := by
  refine steady_mk.2 ⟨h.pending, h.cells, fun _ => ⟨directorySorted_nil, mountSorted_start _⟩, fun _ =>
    Link.bounded_restarted _, fun q => ?_, fun _ => Txn.tidy_ended⟩
  exact ⟨⟨Nat.zero_le _, Nat.le_refl _, by simp [NoticeUnit.restarted], by simp [NoticeUnit.restarted],
    updatedCauses_length r (h.notices q).1⟩, fun _ => rfl⟩

end

end Sys2Proof.Machine
end

