-- ==== Sys2Proof/WellFormed.lean ====
section
/-! DEFINITION. Which commands can arise: the limits the formats put on the operands. -/

namespace Sys2Proof

/-- A payload has 0 to 253 bytes, since LEN is 2 to 255 (R181's frame table, R145). -/
def payloadFits (payload : List Byte) : Bool := decide (payload.length ≤ 253)

/-- The operand limits of a command: a request's payload fits a frame, and a read of 1 to 16 cells hands on at most
16 indeterminate cells (R84). Every other operand has its range in its type. -/
def Instr.wellFormed : Instr → Bool
  | .receiveCharacter _ _ => true
  | .byteGapTimerExpiry => true
  | .heldFrameTaken => true
  | .status _ payload => payloadFits payload
  | .abandon _ payload => payloadFits payload
  | .ackNotice _ payload => payloadFits payload
  | .pollNotice _ payload => payloadFits payload
  | .restart _ payload => payloadFits payload
  | .read _ payload => payloadFits payload
  | .list _ payload => payloadFits payload
  | .wear _ payload => payloadFits payload
  | .getReport _ payload => payloadFits payload
  | .beginTxn _ payload => payloadFits payload
  | .stageWrite _ payload => payloadFits payload
  | .stageDelete _ payload => payloadFits payload
  | .stageTally _ payload => payloadFits payload
  | .commit _ payload => payloadFits payload
  | .commitWaitEnd => true
  | .increment _ payload => payloadFits payload
  | .incrementWaitEnd => true
  | .compact _ payload => payloadFits payload
  | .format _ payload => payloadFits payload
  | .frameSent => true
  | .waitingProducerPlaces => true
  | .idleTimerExpiry => true
  | .arbiterGrant => true
  | .readComplete indeterminate => decide (indeterminate.length ≤ 16)
  | .programComplete _ => true
  | .compactionWalkResume => true
  | .eraseComplete _ => true
  | .supplyCaution => true
  | .cautionTimerExpiry => true
  | .vddAboveRecovery => true
  | .vddAtOrBelowRecovery => true
  | .recoveryTimerExpiry => true
  | .brownout => true
  | .powerOn => true
  | .resetNFall => true
  | .resetLine => true
  | .resetNRise => true
  | .restartProceed _ => true

end Sys2Proof
end

