-- ==== Sys2Proof/Tests/Slice0.lean ====
section
/-! SUPPORT. The model's own tests: the well-formedness checks, worked examples of the spec as one step each on a small
state, and for every statement with hypotheses a state and operands that meet them (witness_<statement>). -/

namespace Sys2Proof.Tests

open Sys2Proof.Machine

/- One test after another: tests that wait for the kernel side by side would each hold a thread. -/
set_option Elab.async false

/-! ### Well-formedness -/

/-- 254 bytes, one more than a frame carries. -/
def tooLong : List Byte := List.replicate 254 0

theorem test_payload_too_long :
    (Instr.status 0 tooLong).wellFormed = false ∧ (Instr.abandon 0 tooLong).wellFormed = false ∧
    (Instr.ackNotice 0 tooLong).wellFormed = false ∧ (Instr.pollNotice 0 tooLong).wellFormed = false ∧
    (Instr.restart 0 tooLong).wellFormed = false ∧ (Instr.read 0 tooLong).wellFormed = false ∧
    (Instr.list 0 tooLong).wellFormed = false ∧ (Instr.wear 0 tooLong).wellFormed = false ∧
    (Instr.getReport 0 tooLong).wellFormed = false ∧ (Instr.beginTxn 0 tooLong).wellFormed = false ∧
    (Instr.stageWrite 0 tooLong).wellFormed = false ∧ (Instr.stageDelete 0 tooLong).wellFormed = false ∧
    (Instr.stageTally 0 tooLong).wellFormed = false ∧ (Instr.commit 0 tooLong).wellFormed = false ∧
    (Instr.increment 0 tooLong).wellFormed = false ∧ (Instr.compact 0 tooLong).wellFormed = false ∧
    (Instr.format 0 tooLong).wellFormed = false := by decide +kernel

theorem test_payload_longest : (Instr.stageWrite 0 (List.replicate 253 0)).wellFormed = true := by decide +kernel

theorem test_too_many_indeterminate_cells : (Instr.readComplete (List.replicate 17 0)).wellFormed = false ∧
    (Instr.readComplete (List.replicate 16 0)).wellFormed = true := by decide

/-! ### Formats -/

theorem test_check_value : checkValue [0x31, 0x32, 0x33, 0x34, 0x35, 0x36, 0x37, 0x38, 0x39] = 0x29B1 := by
  decide +kernel

theorem test_wear_header_bytes : (cellBytes (wearHeader 0x01020304)).take 14
    = [0xE1, 0, 0, 0, 0x01, 0x02, 0x03, 0x04, 0, 0, 0, 0, 0, 0] := by decide +kernel

theorem test_bump_bytes : ((entryWords (.bump 2 0x0123 0x0405 7) []).flatMap cellBytes).take 14
    = [0x04, 2, 0x01, 0x23, 0x04, 0x05, 0, 0, 0, 0, 0, 7, 0, 1] := by decide +kernel

theorem test_word_spells_no_command : decodeTableWord 16 0x20 = none := by decide

/-! ### A small store -/

def erased (count : Nat) : PageRec := { state := .erased, eraseCount := count, sequence := none, used := 2, live := 0 }

/-- Page 0 OPEN at append point 2, page 1 SEALED with the four records' entries, page 31 RETIRED, the rest ERASED. -/
def table : Vector PageRec 32 :=
  (((Vector.replicate 32 (erased 28)).set 0
    { state := .opened, eraseCount := 30, sequence := some 2, used := 2, live := 0 }).set 1
    { state := .sealed, eraseCount := 31, sequence := some 1, used := 60, live := 19 }).set 31
    { state := .retired, eraseCount := 40, sequence := none, used := 2, live := 0 }

/-- The directory of the staging example, with locations on page 1. -/
def directory : List DirEntry :=
  [{ ident := 4, gen := 3, loc := { page := 1, cell := 2 }, stale := 0, body := .blob 12 },
   { ident := 12, gen := 2, loc := { page := 1, cell := 4 }, stale := 0, body := .tally 100 [] },
   { ident := 37, gen := 3, loc := { page := 1, cell := 6 }, stale := 1, body := .tombstone },
   { ident := 90, gen := 6, loc := { page := 1, cell := 7 }, stale := 2, body := .blob 200 }]

/-- A store in READY with nothing going on. -/
def ready : State :=
  { State.reset with
    store := .ready
    mount := none
    directory
    array := { State.reset.array with
      table, appendPoint := some 2, nextSequence := some 3, mountRequest := none } }

/-- The same with transaction 21 OPEN and a staging list. -/
def opened (ops : List StagedOp) : State :=
  { ready with txn := { state := .opened, number := some 21, idleRunning := true, nextNumber := 22, staging := ops } }

/-- A request executing. -/
def busy (s : State) (kind : RequestKind) : State :=
  { s with executor := { s.executor with executing := some { kind, tag := 9, payload := [] } } }

/-- The frame of a RESTART request with tag 7, from LEN on. -/
def restartBody : List Byte := [2, 0x05, 7]

theorem answersNow_of (s : State) (h : s.restarting = none ∧ s.supply.resetNHigh = true ∧ s.link = ready.link) :
    s.answersNow := by
  obtain ⟨a, b, c⟩ := h
  refine ⟨a, b, ?_⟩
  rw [c]
  decide

theorem executesNow_of (s : State) (kind : RequestKind) (tag : Byte) (payload : List Byte)
    (h : (s.restarting = none ∧ s.supply.resetNHigh = true ∧ s.link = ready.link) ∧
      (s.store = .ready ∨ s.store = .readOnly) ∧ s.executor.executing = none) : s.executesNow kind tag payload := by
  obtain ⟨a, b, c⟩ := h
  refine ⟨answersNow_of s a, b, c, ?_, ?_⟩
  · rw [a.2.2]
    rfl
  · unfold State.replayOf
    rw [a.2.2]
    cases kind <;> rfl

theorem ready_answersNow : ready.answersNow := answersNow_of ready (by decide)

theorem takesNow_of {s : State} (h : s.answersNow) : s.takesNow := ⟨h.1, h.2.1, h.2.2.1, h.2.2.2.1⟩

/-- A state whose transmit queue is full. -/
def full (s : State) : State :=
  { s with link := { s.link with transmit := List.replicate 6 { kind := 0x81, tag := 1, payload := [] } } }

theorem full_takesNow {s : State} (h : s.takesNow) : (full s).takesNow ∧ ¬(full s).link.transmit.length < 6 :=
  ⟨h, by change ¬(6 : Nat) < 6; decide⟩

theorem ready_nothingToTake : ready.nothingToTake := Or.inr (Or.inr (Or.inr rfl))

theorem ready_executesNow (kind : RequestKind) (tag : Byte) (payload : List Byte) :
    ready.executesNow kind tag payload := executesNow_of ready kind tag payload (by decide)

theorem opened_executesNow (ops : List StagedOp) (kind : RequestKind) (tag : Byte) (payload : List Byte) :
    (opened ops).executesNow kind tag payload :=
  executesNow_of (opened ops) kind tag payload ⟨⟨rfl, rfl, rfl⟩, Or.inl rfl, rfl⟩

/-- The reply a state sends last. -/
def lastSent : Host.Outcome State Fault Refusal → Option Frame
  | .next t => t.link.transmit.getLast?
  | .fault _ => none
  | .refused _ => none

/-- The next state, as far as a projection of it goes. -/
def after {α : Type} (f : State → α) : Host.Outcome State Fault Refusal → Option α
  | .next t => some (f t)
  | .fault _ => none
  | .refused _ => none

/-! ### One step each -/

theorem test_list_from_10 : lastSent (exec (.list 1 [0, 10, 2]) ready)
    = some { kind := 0x91, tag := 1, payload := [0, 2, 1, 0, 12, 2, 0, 0, 0, 2, 0, 0, 37, 3, 0, 0, 0, 3, 0] } := by
  decide +kernel

theorem test_read_tally : lastSent (exec (.read 1 [0, 12]) ready)
    = some { kind := 0x90, tag := 1, payload := [0, 2, 0, 0, 0, 2, 0, 0, 0, 100] } := by decide +kernel

theorem test_read_absent : lastSent (exec (.read 1 [0, 13]) ready) = some { kind := 0x90, tag := 1, payload := [0x10] } := by
  decide +kernel

theorem test_wear : lastSent (exec (.wear 1 [0, 3]) ready)
    = some { kind := 0x92, tag := 1, payload :=
      [0, 0, 3, 1, 0, 0, 0, 30, 2, 0, 2, 0, 0, 0, 31, 60, 19, 0, 0, 0, 0, 28, 2, 0] } := by decide +kernel

theorem test_begin : lastSent (exec (.beginTxn 1 []) { ready with txn := { ready.txn with nextNumber := 21 } })
    = some { kind := 0xA0, tag := 1, payload := [0, 0, 0, 0, 21] } := by decide +kernel

theorem test_stage_write : lastSent (exec (.stageWrite 1 ([0, 0, 0, 21, 0, 37] ++ List.replicate 64 0))
      (opened [.write 90 (List.replicate 200 0)]))
    = some { kind := 0xA1, tag := 1, payload := [0, 2, 1, 8] } := by decide +kernel

theorem test_stage_tally_over_directory_tally :
    lastSent (exec (.stageTally 1 [0, 0, 0, 21, 0, 12, 0, 0, 1, 0xF4]) (opened [.delete 12]))
      = some { kind := 0xA3, tag := 1, payload := [0x11] } := by decide +kernel

theorem test_stage_tally_replaces_delete :
    after (fun t => t.txn.staging) (exec (.stageTally 1 [0, 0, 0, 21, 0, 4, 0, 0, 1, 0xF4])
      (opened [.delete 12, .delete 4])) = some [.delete 12, .createTally 4 500] := by decide +kernel

theorem test_stage_delete_removes : after (fun t => t.txn.staging)
      (exec (.stageDelete 1 [0, 0, 0, 21, 0, 37]) (opened [.delete 12, .write 37 [1]]))
    = some [.delete 12] := by decide +kernel

theorem test_commit_requests_program : after (fun t => (t.txn.state, t.array.executorRequest))
      (exec (.commit 1 [0, 0, 0, 21]) (opened [.delete 12]))
    = some (.committing, some .program) := by decide +kernel

theorem test_increment_at_maximum : lastSent (exec (.increment 1 [0, 12, 0, 1]) { ready with directory :=
      [{ ident := 12, gen := 2, loc := { page := 1, cell := 4 }, stale := 0, body := .tally 4294967295 [] }] })
    = some { kind := 0xA5, tag := 1, payload := [0x50, 0xFF, 0xFF, 0xFF, 0xFF, 0, 0, 0, 2] } := by decide +kernel

theorem test_compact_takes_the_victim : after (fun t => (t.compaction.phase, t.compaction.victim, t.array.compactionRequest))
      (exec (.compact 1 [1]) ready)
    = some (.copy, some 1, some .read) := by decide +kernel

theorem test_abandon_unknown_number : lastSent (exec (.abandon 1 [0, 0, 0, 20]) (opened []))
    = some { kind := 0x82, tag := 1, payload := [0x22] } := by decide +kernel

theorem test_idle_timer : after (fun t => (t.txn.state, t.notices.queue.map Notice.content)) (exec .idleTimerExpiry (opened []))
    = some (.none, [.txnExpired 21]) := by decide +kernel

theorem test_restart_character : after (fun t => (t.link.rx, t.link.transmit))
      (execAll ([0xB7, 2, 0x05, 7, 0x2D, 0xEE].map (fun b => Instr.receiveCharacter b true)) ready)
    = some (.hunt, [{ kind := 0x85, tag := 7, payload := [0] }]) := by decide +kernel

theorem test_length_below_two : after (fun t => (t.link.rx, t.link.discarded))
      (execAll ([0xB7, 1].map (fun b => Instr.receiveCharacter b true)) ready)
    = some (.hunt, 1) := by decide +kernel

theorem test_first_grant_of_a_mount : after (fun t => (t.array.inFlight, t.array.mountRequest)) (exec .arbiterGrant State.reset)
    = some (some { owner := some .mount, op := .read 0 0 16 }, none) := by decide +kernel

theorem test_page_switch_to_the_least_worn : after (fun t => (t.array.inFlight.map Flight.op, t.array.nextSequence,
      (t.page 0).state, (t.page 2).state, t.array.appendPoint))
      (exec .arbiterGrant { ready with
        array := { ready.array with appendPoint := some 126, executorRequest := some .program }
        executor := { ready.executor with
          executing := some { kind := .increment, tag := 1, payload := [0, 12, 0, 1] }
          increment := some { ident := 90, delta := 1, need := 1, waiting := false, waitOver := false, failures := 0, run := none,
                              composed := some { isFold := true, gen := 3, ordinal := 0, value := 1, saturated := false,
                                                 words := [0, 0, 0] } } } })
    = some (some (.openHeader 2 (openHeader 3)), some 4, .sealed, .opened, some 2) := by decide +kernel

theorem test_header_failure_sets_aside : after (fun t => (t.page 14, t.openPage, t.array.appendPoint))
      (exec (.programComplete .verifyFail) { ready with array := { ready.array with
        table := (ready.array.table.set 0 { state := .sealed, eraseCount := 31, sequence := some 140, used := 126, live := 104 }).set 14
          { state := .opened, eraseCount := 28, sequence := some 141, used := 2, live := 0 }
        inFlight := some { owner := some .compaction, op := .openHeader 14 (openHeader 141) } } })
    = some ({ state := .sealed, eraseCount := 28, sequence := some 141, used := 128, live := 0 }, none, none) := by
  decide +kernel

theorem test_erase_leaves_the_wear_header : after (fun t => (t.array.cells, t.page 2))
      (exec (.eraseComplete .ok) { ready with
        array := { ready.array with cells := [(256, .indeterminate), (257, .indeterminate), (384, .indeterminate)]
                                    inFlight := some { owner := some .mount, op := .erase 2 5 } }
        mount := some { MountRecord.start none with toErase := [2, 3] } })
    = some ([(256, .word (wearHeader 5)), (384, .indeterminate)], erased 5) := by decide +kernel

theorem test_indeterminate_cells_read_as_the_operand_says :
    Memory.readRun [(5, .indeterminate), (6, .word 9)] 4 3 [77] 0 = ([0, 77, 9], 0) := by decide +kernel

/-! ### Witnesses: states and operands that meet the hypotheses of each statement -/

/-- The small store in the midst of a frame. -/
def inFrame (rx : RxState) (received : List Byte) : State :=
  { ready with link := { ready.link with rx, received, byteGapRunning := true } }

/-- The small store with a full transmit queue and the handler's reply waiting for a place. -/
def handlerWaits (held : Option Frame) : State :=
  { ready with link := { ready.link with
      transmit := List.replicate 6 { kind := 0x81, tag := 0, payload := [0] }
      handlerReply := some { kind := 0x81, tag := 1, payload := [0] }
      waiters := [.handler]
      held } }

theorem witness_StepRunsTheFrontCommand : State.reset.pending = [] := rfl

theorem witness_StepKeepsSoundness : (ready.sound ∧ ∃ t, step { ready with pending := [.frameSent] } = .next t) ∧
    State.sound { ready with pending := [.frameSent] } := by
  have h : ready.sound := by
    refine ⟨rfl, ?_, ?_, ?_, ?_, fun x r e => nomatch e⟩
    · unfold directorySorted
      decide
    · unfold Link.bounded
      decide
    · unfold NoticeUnit.kept NoticeUnit.bounded
      decide
    · unfold Txn.tidy
      decide
  exact ⟨⟨h, _, rfl⟩, h⟩

theorem witness_OnlyCompletionsAndColdCausesChangeCells :
    ∃ c t, exec c ready = .next t ∧ (∀ o, c ≠ .programComplete o) ∧ (∀ o, c ≠ .eraseComplete o) ∧ c ≠ .brownout ∧
      c ≠ .powerOn := ⟨.frameSent, _, rfl, by simp, by simp, by simp, by simp⟩

theorem witness_HeaderCellValidity :
    cellByte (wearHeader 0) 0 = 0xE1 ∧ cellByte (openHeader 4294967295) 0 = 0xE2 := by decide +kernel

theorem witness_WhatIsWrittenIsJudgedValid :
    ∃ (n ident txn gen ordinal delta count victim : Nat) (data : List Byte),
      n < 2 ^ 32 ∧ 1 ≤ ident ∧ ident ≤ 4094 ∧ txn < 2 ^ 32 ∧ 1 ≤ gen ∧ gen < 2 ^ 32 ∧ data.length ≤ 240 ∧
      1 ≤ ordinal ∧ ordinal ≤ 32 ∧ 1 ≤ delta ∧ delta < 2 ^ 16 ∧ count < 256 ∧ victim ≤ 31 :=
  ⟨4294967295, 4094, 0, 1, 32, 65535, 255, 31, List.replicate 240 0, by decide +kernel⟩

theorem witness_FrameCharactersActAsTheRequest : (List.replicate 253 (0 : Byte)).length ≤ 253 ∧
    (ready.link.rx = .hunt ∧ ready.link.received = [] ∧ ready.link.byteGapRunning = false) ∧
    (∀ k, requestCode k ≠ 0x06) ∧ ready.takesNow ∧ ready.nothingToTake :=
  ⟨by decide +kernel, by decide, fun k => by cases k <;> decide, takesNow_of ready_answersNow, ready_nothingToTake⟩

theorem witness_CharacterByReceiverState :
    (ready.restarting = none ∧ ready.supply.resetNHigh = true ∧ ready.link.rx = .hunt ∧ (0xB6 : Byte) ≠ 0xB7 ∧
      ready.link.byteGapRunning = false) ∧
    ((inFrame .length []).link.rx = .length ∧ (inFrame .length []).link.rx ≠ .hunt ∧
      (inFrame .length []).link.byteGapRunning = true ∧ 2 ≤ (2 : Byte).toNat ∧ (1 : Byte).toNat < 2) ∧
    ((inFrame .body [2]).link.received = 2 :: [] ∧ ([] : List Byte).length < (2 : Byte).toNat) ∧
    ((inFrame .body [2, 5]).link.received = 2 :: [5] ∧ ([5] : List Byte).length < (2 : Byte).toNat) ∧
    ((inFrame .check restartBody).link.received = 2 :: [5, 7] ∧ ([5, 7] : List Byte).length = (2 : Byte).toNat) ∧
    ((inFrame .check (restartBody ++ [0x2D])).link.received = 2 :: [5, 7] ++ [0x2D] ∧
      checkBytes (checkValue (2 :: [5, 7])) ≠ [0x2D, 0xEF] ∧ checkBytes (checkValue (2 :: [5, 7])) = [0x2D, 0xEE] ∧
      ([5, 7] : List Byte) = requestCode .restart :: 7 :: []) := by decide +kernel

theorem witness_OneFrameIsHeld :
    (ready.restarting = none ∧ ready.supply.resetNHigh = true) ∧
    ((handlerWaits none).link.handlerReply ≠ none ∧ (handlerWaits none).link.held = none) ∧
    ((handlerWaits (some { kind := 1, tag := 2, payload := [0] })).link.handlerReply ≠ none ∧
      (handlerWaits (some { kind := 1, tag := 2, payload := [0] })).link.held ≠ none) ∧
    (let s : State := { ready with link := { ready.link with held := some { kind := 0x05, tag := 2, payload := [] } } }
     s.link.handlerReply = none ∧ s.link.held = some { kind := requestCode .restart, tag := 2, payload := [] } ∧
       State.answersNow { s with link := { s.link with held := none } } ∧ s.nothingToTake) ∧
    ready.link.held = none :=
  ⟨by decide, by decide, by decide, ⟨rfl, rfl, ready_answersNow, ready_nothingToTake⟩, rfl⟩

theorem witness_ImmediateBadArguments :
    RequestKind.status ∈ [.status, .abandon, .ackNotice, .pollNotice, .restart] ∧ ¬payloadValid .status [2] ∧
    ¬payloadValid .abandon [0, 0, 0, 0] ∧ ¬payloadValid .abandon [0xFF, 0xFF, 0xFF, 0xFF] ∧ ¬payloadValid .ackNotice [0] ∧
    ¬payloadValid .restart [0] ∧ ready.takesNow ∧ ready.nothingToTake ∧
    (full ready).takesNow ∧ (full ready).nothingToTake ∧ ¬(full ready).link.transmit.length < 6 :=
  ⟨by decide, by unfold payloadValid; decide, by unfold payloadValid; decide, by unfold payloadValid; decide,
    by unfold payloadValid; decide, by unfold payloadValid; decide, takesNow_of ready_answersNow, ready_nothingToTake,
    (full_takesNow (takesNow_of ready_answersNow)).1, ready_nothingToTake,
    (full_takesNow (takesNow_of ready_answersNow)).2⟩

/-- The small store with a request executing under tag 9 and four more in the queue. -/
def fullQueue : State :=
  { busy ready .commit with link := { ready.link with
      queue := [{ kind := .read, tag := 1, payload := [] }, { kind := .read, tag := 2, payload := [] },
                { kind := .read, tag := 3, payload := [] }, { kind := .read, tag := 4, payload := [] }] } }

/-- An entry of the replay table. -/
def replayed (tag : Byte) : ReplayEntry :=
  { tag, kind := .beginTxn, check := frameCheck 0x20 tag [], reply := [0, 0, 0, 0, 21] }

theorem witness_QueuedRequestChecks :
    RequestKind.beginTxn ∉ [.status, .abandon, .ackNotice, .pollNotice, .restart] ∧
    (ready.answersNow ∧ ready.nothingToTake ∧ ready.store = .ready) ∧
    (State.answersNow { ready with store := .mounting } ∧ State.nothingToTake { ready with store := .formatting }) ∧
    (fullQueue.answersNow ∧ fullQueue.nothingToTake ∧ (∃ r ∈ fullQueue.link.queue, r.tag = 4) ∧
      (∃ r, fullQueue.executor.executing = some r ∧ r.tag = 9) ∧ 4 ≤ fullQueue.link.queue.length) ∧
    ((busy ready .commit).answersNow ∧ (busy ready .commit).nothingToTake ∧ (busy ready .commit).link.queue.length < 4 ∧
      (busy ready .commit).executor.executing ≠ none ∧ ∀ r ∈ (busy ready .commit).link.queue, r.tag ≠ 5) ∧
    ([replayed 4, replayed 5] = [replayed 4] ++ replayed 5 :: [] ∧ (replayed 5).tag = 5 ∧ (replayed 4).tag ≠ 5 ∧
      (replayed 5).check = frameCheck (requestCode .beginTxn) 5 []) :=
  ⟨by decide, ⟨ready_answersNow, ready_nothingToTake, rfl⟩,
    ⟨ready_answersNow, Or.inr (Or.inr (Or.inl rfl))⟩,
    ⟨by unfold State.answersNow; decide, Or.inl (by decide), by decide, ⟨_, rfl, rfl⟩, by decide⟩,
    ⟨answersNow_of _ ⟨rfl, rfl, rfl⟩, Or.inl (by decide), by decide, by decide, by decide⟩,
    by decide +kernel⟩

theorem witness_QueuedBadArguments :
    RequestKind.list ∉ [.status, .abandon, .ackNotice, .pollNotice, .restart] ∧ ¬payloadValid .list [0, 1, 21] ∧
    ¬payloadValid .read [0x0F, 0xFF] ∧ ready.executesNow .list 1 [0, 1, 21] ∧ ready.executesNow .read 1 [0x0F, 0xFF] :=
  ⟨by decide, by unfold payloadValid; decide, by unfold payloadValid; decide, ready_executesNow _ _ _,
    ready_executesNow _ _ _⟩

theorem witness_ReplayTableInsertion :
    (let t := [replayed 1, replayed 2, replayed 3, replayed 4, replayed 5, replayed 6, replayed 7, replayed 8]
     t.length ≤ 8 ∧ (t.map ReplayEntry.tag).Nodup ∧ t = [replayed 1] ++ replayed 2 :: t.drop 2 ∧
       (∀ y ∈ t, y.tag ≠ (replayed 9).tag) ∧ t.length = 8 ∧ t = replayed 1 :: t.drop 1) ∧
    ((∀ x ∈ [replayed 1], x.tag ≠ (replayed 9).tag) ∧ [replayed 1].length < 8) := by decide +kernel

theorem witness_RestartBeginsWhenItsReplyIsSent :
    (ready.answersNow ∧ ready.nothingToTake) ∧
    (let s : State := { ready with link := { ready.link with transmit := [{ kind := 0x85, tag := 1, payload := [0x00] }] } }
     s.restarting = none ∧ s.supply.resetNHigh = true ∧
       s.link.transmit = ({ kind := 0x85, tag := 1, payload := [0x00] } : Frame) :: []) ∧
    ((0x85 : Byte) ≠ 0x85 ∨ ([0x04] : List Byte) ≠ [0x00]) ∧ ready.link.transmit = [] :=
  ⟨⟨ready_answersNow, ready_nothingToTake⟩, by decide, by decide, rfl⟩

theorem witness_FirstWaitingProducerPlaces :
    let f : Frame := { kind := 0x81, tag := 1, payload := [0] }
    let handler : State := { ready with link := { ready.link with waiters := [.handler], handlerReply := some f } }
    let executor : State := { busy ready .read with
      link := { ready.link with waiters := [.executor] }, executor := { (busy ready .read).executor with reply := some f } }
    let notices : State := { ready with
      link := { ready.link with waiters := [.noticeUnit, .executor, .noticeUnit] }
      notices := { ready.notices with outgoing := [f, f] } }
    (ready.restarting = none ∧ ready.link.transmit.length < 6 ∧ 6 ≤ (full ready).link.transmit.length) ∧
    (handler.link.waiters = .handler :: [] ∧ handler.link.handlerReply = some f) ∧
    (executor.link.waiters = .executor :: [] ∧ executor.executor.reply = some f ∧ executor.link.queue = []) ∧
    (notices.link.waiters = .noticeUnit :: [.executor, .noticeUnit] ∧ notices.notices.outgoing = f :: [f]) ∧
    ready.link.waiters = [] := by decide

theorem witness_StatusAnswersTheRecord : ready.takesNow ∧ ready.nothingToTake ∧
    (full ready).takesNow ∧ (full ready).nothingToTake ∧
    (ready.store = .ready ∧ State.store { ready with store := .readOnly } = .readOnly ∧
      State.store { ready with store := .formatting } = .formatting) ∧
    (State.reset.store = .mounting ∧ State.reset.txn.state = .none ∧ State.reset.txn.number = none ∧
      State.reset.txn.staging = [] ∧ State.reset.link.queue = [] ∧ State.reset.executor.executing = none) :=
  ⟨takesNow_of ready_answersNow, ready_nothingToTake, (full_takesNow (takesNow_of ready_answersNow)).1,
    ready_nothingToTake, by decide, by decide⟩

/-! A commit of transaction 21 with its only operation at work. -/

/-- The commit record while the operation's entry is in programming at page 0, cell 2. -/
def writing : CommitRecord :=
  { CommitRecord.fresh 1 with
    stage := .programming
    commitPage := some 0
    items := [{ composed := some { gen := 4, words := [7] }, final := none, finalStands := false, failures := 0 }]
    granted := true
    programmed := true
    run := some { page := 0, first := 2, words := [7], done := 0 } }

/-- The commit record while the marker is in programming at page 0, cell 3. -/
def marking : CommitRecord :=
  { writing with
    stage := .marking
    position := 1
    items := [{ composed := some { gen := 4, words := [7] }, final := some { page := 0, cell := 2 }, finalStands := true,
                failures := 0 }]
    markerGranted := true
    run := some { page := 0, first := 3, words := [9], done := 0 } }

/-- A COMMIT executing with its record, and the operation in flight. -/
def committing (c : CommitRecord) (flight : Option Flight) : State :=
  { opened [.delete 4] with
    txn := { (opened [.delete 4]).txn with state := .committing, idleRunning := false }
    executor := { ready.executor with executing := some { kind := .commit, tag := 9, payload := [0, 0, 0, 21] }, commit := some c }
    array := { ready.array with appendPoint := some 4, inFlight := flight } }

theorem committing_answersNow (c : CommitRecord) (f : Option Flight) : (committing c f).answersNow :=
  answersNow_of _ ⟨rfl, rfl, rfl⟩

theorem committing_finishes (c : CommitRecord) (f : Option Flight) :
    (committing c f).finishes { kind := .commit, tag := 9, payload := [0, 0, 0, 21] } :=
  ⟨rfl, rfl, rfl, by change (0 : Nat) < 6; decide, rfl⟩

theorem witness_AbandonByTheTransaction :
    (payloadValid .abandon [0, 0, 0, 21] ∧ (committing marking none).takesNow ∧ (committing marking none).nothingToTake ∧
      (committing marking none).txn.state = .committing ∧
      (committing marking none).txn.number = some (beNat [0, 0, 0, 21]) ∧
      (committing marking none).executor.commit = some marking ∧ marking.markerGranted = true) ∧
    (ready.answersNow ∧ ready.nothingToTake ∧ ready.txn.state = .none) ∧
    ((opened []).answersNow ∧ (opened []).nothingToTake ∧ (opened []).txn.state ≠ .none ∧
      (opened []).txn.number ≠ some (beNat [0, 0, 0, 20]) ∧ (opened []).txn.state = .opened ∧
      (opened []).txn.number = some (beNat [0, 0, 0, 21])) ∧
    (let s := committing writing (some { owner := some .executor, op := .program 0 2 7 })
     s.answersNow ∧ s.txn.state = .committing ∧ s.txn.number = some (beNat [0, 0, 0, 21]) ∧
       s.executor.commit = some writing ∧ writing.markerGranted = false ∧
       s.executor.executing = some { kind := .commit, tag := 9, payload := [0, 0, 0, 21] } ∧
       s.array.inFlight = some { owner := some .executor, op := .program 0 2 7 }) ∧
    (let s := committing { writing with run := none } none
     s.answersNow ∧ s.executor.commit = some { writing with run := none } ∧ s.array.inFlight = none ∧ s.link.queue = [] ∧
       s.link.transmit.length < 5) :=
  ⟨⟨by unfold payloadValid; decide, takesNow_of (committing_answersNow _ _), Or.inl (by decide), by decide⟩,
    ⟨ready_answersNow, ready_nothingToTake, rfl⟩,
    ⟨answersNow_of _ ⟨rfl, rfl, rfl⟩, Or.inr (Or.inr (Or.inr rfl)), by decide, by decide, by decide, by decide⟩,
    ⟨committing_answersNow _ _, by decide⟩, ⟨committing_answersNow _ _, by decide⟩⟩

/-- The small store with notices 255 and 1 queued, their frames sent. -/
def noticed : State :=
  { ready with notices := { ready.notices with
      queue := [{ number := 255, lost := 0, content := .start Report.unbuilt }, { number := 1, lost := 0, content := .spaceLow 2 }]
      nextNumber := 2 } }

theorem witness_AckNoticeRemovesThrough :
    (noticed.takesNow ∧ noticed.nothingToTake) ∧
    (noticed.notices.queue = [] ++ noticed.notices.queue.headD { number := 0, lost := 0, content := .spaceLow 0 }
        :: noticed.notices.queue.drop 1 ∧ (255 : Byte) ≠ 0 ∧
      (noticed.notices.queue.headD { number := 0, lost := 0, content := .spaceLow 0 }).number = (255 : Byte).toNat) ∧
    (∀ x ∈ noticed.notices.queue.take 1, x.number ≠ (1 : Byte).toNat) ∧
    ∀ x ∈ noticed.notices.queue, x.number ≠ (2 : Byte).toNat :=
  ⟨⟨takesNow_of (answersNow_of _ ⟨rfl, rfl, rfl⟩), Or.inr (Or.inr (Or.inr rfl))⟩, by decide, by decide, by decide⟩

theorem witness_PollNoticeReportsTheOldest :
    (ready.takesNow ∧ ready.nothingToTake ∧ ready.notices.queue = []) ∧
    (noticed.takesNow ∧ noticed.nothingToTake ∧ noticed.notices.queue ≠ []) ∧ ([0] : List Byte) ≠ [] :=
  ⟨⟨takesNow_of ready_answersNow, ready_nothingToTake, rfl⟩,
    ⟨takesNow_of (answersNow_of _ ⟨rfl, rfl, rfl⟩), Or.inr (Or.inr (Or.inr rfl)), by decide⟩, by decide⟩

theorem witness_ReadByTheDirectory :
    (payloadValid .read [0, 4] ∧ payloadValid .read [0x0F, 0xFE] ∧ ready.executesNow .read 1 [0, 4]) ∧
    ready.entryOf (beNat [0x0F, 0xFE]) = none ∧
    (ready.entryOf (beNat [0, 37])).map DirEntry.body = some .tombstone ∧
    (ready.entryOf (beNat [0, 12])).map DirEntry.body = some (.tally 100 []) ∧
    (ready.entryOf (beNat [0, 4])).map DirEntry.body = some (.blob 12) :=
  ⟨⟨by unfold payloadValid; decide +kernel, by unfold payloadValid; decide +kernel, ready_executesNow _ _ _⟩,
    by decide +kernel⟩

/-- The directory entry of an empty BLOB. -/
def emptyBlob : DirEntry := { ident := 4, gen := 3, loc := { page := 1, cell := 2 }, stale := 0, body := .blob 0 }

/-- A READ of that BLOB executing with its read in flight. -/
def blobRead (cells : Memory) : State :=
  { busy ready .read with
    directory := [emptyBlob]
    executor := { (busy ready .read).executor with blobRead := some 4 }
    array := { ready.array with cells, inFlight := some { owner := some .executor, op := .read 1 2 1 } } }

/-- Its cell. -/
def blobCell : CellWord := (entryWords (.blob 0 4 20 3 0) []).headD blankCell

theorem witness_BlobReadIsAnswered :
    ((blobRead []).array.inFlight = some { owner := some .executor, op := .read 1 2 1 } ∧
      (blobRead []).finishes { kind := .read, tag := 9, payload := [] } ∧ (blobRead []).executor.blobRead = some 4 ∧
      (blobRead []).entryOf 4 = some emptyBlob ∧ emptyBlob.body = .blob 0) ∧
    (Memory.readRun [] (cellAddress 1 2) 1 [] 0 = ([blankCell], 0) ∧ cellByte blankCell 0 ≠ 0x01) ∧
    (Memory.readRun [(130, .word blobCell)] (cellAddress 1 2) 1 [] 0 = ([blobCell], 0) ∧
      checkMatches [blobCell] = true ∧ cellByte blobCell 0 = 0x01 ∧ cellField blobCell 2 2 = 4 ∧
      cellField blobCell 8 4 = 3) ∧
    (∀ i, i < 2 → Memory.read [(5, .word 1)] (4 + i) = .word ([0, 1].getD i 0)) ∧
    Memory.read [(5, .indeterminate)] 5 = .indeterminate :=
  ⟨⟨rfl, ⟨rfl, rfl, rfl, by change (0 : Nat) < 6; decide, rfl⟩, rfl, rfl, rfl⟩, by decide +kernel, by decide +kernel,
    by decide, by decide⟩

theorem witness_ListWalksTheDirectory :
    payloadValid .list [0, 12, 20] ∧ ready.executesNow .list 1 [0, 12, 20] ∧
    ready.directory = ready.directory.take 1 ++ ready.directory.drop 1 ∧
    (∀ e ∈ ready.directory.take 1, e.ident < beNat ([0, 12, 20].take 2)) ∧
    (∀ e ∈ ready.directory.drop 1, beNat ([0, 12, 20].take 2) ≤ e.ident) ∧ ¬payloadValid .list [0, 12, 21] :=
  ⟨by unfold payloadValid; decide, ready_executesNow _ _ _, rfl, by decide, by decide, by unfold payloadValid; decide⟩

theorem witness_WearReportsThePageTable :
    payloadValid .wear [0, 32] ∧ payloadValid .wear [31, 1] ∧ ¬payloadValid .wear [31, 2] ∧
    ready.executesNow .wear 1 [0, 32] ∧
    (State.answersNow { ready with store := .mounting } ∧ State.answersNow { ready with store := .formatting }) :=
  ⟨by unfold payloadValid; decide, by unfold payloadValid; decide, by unfold payloadValid; decide, ready_executesNow _ _ _,
    ready_answersNow, ready_answersNow⟩

theorem witness_GetReportAnswersTheRecord : ready.executesNow .getReport 1 [] ∧
    ([.powerOn, .brownout, .resetLine, .restartRequest] : List Cause).length ≤ 4 := ⟨ready_executesNow _ _ _, by decide⟩

theorem witness_BeginOpensATransaction :
    ((opened []).executesNow .beginTxn 1 [] ∧ (opened []).txn.state ≠ .none) ∧
    (ready.executesNow .beginTxn 1 [] ∧ ready.txn.state = .none ∧ ready.store ≠ .readOnly ∧
      ready.supply.state ≠ .cautionLong ∧ ready.txn.nextNumber ≠ 4294967295) ∧
    State.executesNow { ready with store := .readOnly } .beginTxn 1 [] ∧
    State.executesNow { ready with supply := { ready.supply with state := .cautionLong } } .beginTxn 1 [] ∧
    State.executesNow { ready with txn := { ready.txn with nextNumber := 4294967295 } } .beginTxn 1 [] :=
  ⟨⟨opened_executesNow _ _ _ _, by decide⟩, ⟨ready_executesNow _ _ _, by decide⟩,
    executesNow_of _ _ _ _ ⟨⟨rfl, rfl, rfl⟩, Or.inr rfl, rfl⟩, executesNow_of _ _ _ _ ⟨⟨rfl, rfl, rfl⟩, Or.inl rfl, rfl⟩,
    executesNow_of _ _ _ _ ⟨⟨rfl, rfl, rfl⟩, Or.inl rfl, rfl⟩⟩

theorem witness_TransactionChecks :
    (RequestKind.commit ∈ [.stageWrite, .stageDelete, .stageTally, .commit] ∧ payloadValid .commit [0, 0, 0, 21] ∧
      payloadValid .stageDelete [0xFF, 0xFF, 0xFF, 0xFE, 0x0F, 0xFE]) ∧
    (ready.executesNow .commit 1 [0, 0, 0, 21] ∧ ready.txn.state ≠ .opened) ∧
    ((opened []).executesNow .commit 1 [0, 0, 0, 20] ∧ (opened []).txn.state = .opened ∧
      (opened []).txn.number ≠ some (beNat ([0, 0, 0, 20].take 4)) ∧
      (opened []).txn.number = some (beNat ([0, 0, 0, 21].take 4))) ∧
    State.executesNow { opened [] with store := .readOnly } .commit 1 [0, 0, 0, 21] ∧
    State.executesNow { opened [] with supply := { ready.supply with state := .cautionLong } } .commit 1 [0, 0, 0, 21] :=
  ⟨⟨by decide, by unfold payloadValid; decide, by unfold payloadValid; decide⟩, ⟨ready_executesNow _ _ _, by decide⟩,
    ⟨opened_executesNow _ _ _ _, by decide⟩, executesNow_of _ _ _ _ ⟨⟨rfl, rfl, rfl⟩, Or.inr rfl, rfl⟩,
    executesNow_of _ _ _ _ ⟨⟨rfl, rfl, rfl⟩, Or.inl rfl, rfl⟩⟩

theorem opened_accepts (ops : List StagedOp) : (opened ops).accepts 21 := ⟨rfl, rfl, rfl, by change ready.supply.state ≠ _; decide⟩

/-- What the staging statements ask of the list and of the directory, for every clause. -/
theorem staging_clauses :
    ((opened []).unstaged 4 ∧ (opened []).holdsKind 4 1 ∧ (opened []).holdsKind 12 2 ∧ ¬(opened []).holdsKind 37 1 ∧
      ¬(opened []).holdsKind 37 2) ∧
    (opened [.delete 12, .write 4 [1], .delete 90]).stagedAt 4 [.delete 12] (.write 4 [1]) [.delete 90] ∧
    (opened [.delete 12]).stagedAt 12 [] (.delete 12) [] ∧
    (opened [.createTally 37 5]).stagedAt 37 [] (.createTally 37 5) [] ∧
    ¬(∃ e, (opened []).entryOf 4 = some e ∧ 4294967295 ≤ e.gen) ∧
    (∃ e, State.entryOf { opened [] with directory := [{ ident := 4, gen := 4294967295, loc := { page := 1, cell := 2 }, stale := 0,
                                                         body := .blob 0 }] } 4 = some e ∧ 4294967295 ≤ e.gen) := by
  refine ⟨⟨fun op h => by simp [opened] at h, ⟨_, rfl, rfl⟩, ⟨_, rfl, rfl⟩, ?_, ?_⟩, ?_, ?_, ?_, ?_, ⟨_, rfl, by decide⟩⟩
  · rintro ⟨e, h, k⟩
    cases h
    exact absurd k (by decide)
  · rintro ⟨e, h, k⟩
    cases h
    exact absurd k (by decide)
  · unfold State.stagedAt
    decide
  · unfold State.stagedAt
    decide
  · unfold State.stagedAt
    decide
  · rintro ⟨e, h, k⟩
    cases h
    exact absurd k (by decide)

theorem witness_StageWriteEffect : ((opened []).executesNow .stageWrite 1 (beBytes 4 21 ++ beBytes 2 4 ++ List.replicate 240 0) ∧
    (opened []).accepts 21) ∧ ((opened []).unstaged 12 ∧ (opened []).holdsKind 12 2) ∧
    (opened []).unstaged 4 ∧ ¬(opened []).holdsKind 4 2 := by
  refine ⟨⟨opened_executesNow _ _ _ _, opened_accepts _⟩, ⟨fun op h => by simp [opened] at h, ⟨_, rfl, rfl⟩⟩,
    fun op h => by simp [opened] at h, ?_⟩
  rintro ⟨e, h, k⟩
  cases h
  exact absurd k (by decide)

theorem witness_StageTallyEffect : ((opened []).executesNow .stageTally 1 (beBytes 4 21 ++ beBytes 2 4094 ++ beBytes 4 4294967295) ∧
    (opened []).accepts 21) ∧ ((opened [.delete 4]).stagedAt 4 [] (.delete 4) [] ∧ ¬(opened [.delete 4]).holdsKind 4 2) ∧
    ((opened [.delete 12]).stagedAt 12 [] (.delete 12) [] ∧ (opened [.delete 12]).holdsKind 12 2) := by
  refine ⟨⟨opened_executesNow _ _ _ _, opened_accepts _⟩, ⟨by unfold State.stagedAt; decide, ?_⟩,
    by unfold State.stagedAt; decide, ⟨_, rfl, rfl⟩⟩
  rintro ⟨e, h, k⟩
  cases h
  exact absurd k (by decide)

theorem witness_StageDeleteEffect : ((opened []).executesNow .stageDelete 1 (beBytes 4 21 ++ beBytes 2 1) ∧
    (opened []).accepts 21) ∧
    ((opened [.write 37 [1]]).stagedAt 37 [] (.write 37 [1]) [] ∧ StagedOp.write 37 [1] ≠ .delete 37 ∧
      ¬((opened [.write 37 [1]]).holdsKind 37 1 ∨ (opened [.write 37 [1]]).holdsKind 37 2)) ∧
    ((opened [.write 4 [1]]).stagedAt 4 [] (.write 4 [1]) [] ∧ (opened [.write 4 [1]]).holdsKind 4 1) := by
  refine ⟨⟨opened_executesNow _ _ _ _, opened_accepts _⟩, ⟨by unfold State.stagedAt; decide, by decide, ?_⟩,
    by unfold State.stagedAt; decide, ⟨_, rfl, rfl⟩⟩
  rintro (⟨e, h, k⟩ | ⟨e, h, k⟩) <;> cases h <;> exact absurd k (by decide)

theorem witness_IdleTimerExpires :
    ((opened []).restarting = none ∧ (opened []).txn.state = .opened ∧ (opened []).txn.idleRunning = true ∧
      (opened []).txn.number = some 21) ∧ ready.txn.idleRunning = false := by decide

/-- The small store with n ERASED pages, from page 2 on, and a run in progress on page 1. -/
def scarce (s : State) (n : Nat) (victim : Option PageIx) : State :=
  { s with
    array := { s.array with
      appendPoint := some 128
      table := Vector.ofFn (fun p => if p = 0 then { state := .opened, eraseCount := 30, sequence := some 2, used := 128, live := 0 }
        else if 2 ≤ p.val ∧ p.val < 2 + n then erased 28
        else { state := .sealed, eraseCount := 31, sequence := some 1, used := 128, live := 126 }) }
    compaction := { Compaction.idle with phase := .copy, victim } }

/-- The same with the engine IDLE. -/
def calm (s : State) : State := { s with compaction := Compaction.idle }

/-- A directory with no slot left. -/
def fullDirectory : List DirEntry := List.replicate 512 emptyBlob

theorem witness_CommitAdmission :
    (payloadValid .commit [0, 0, 0, 21] ∧ (opened []).accepts (beNat [0, 0, 0, 21]) ∧
      (opened [.delete 4]).executesNow .commit 1 [0, 0, 0, 21] ∧
      (scarce (opened []) 1 (some 1)).executesNow .commit 1 [0, 0, 0, 21]) ∧
    ((scarce (opened []) 1 (some 1)).compaction.victim ≠ none ∧ (scarce (opened []) 1 (some 1)).erasedCount < 2) ∧
    ((opened [.delete 4]).compaction.victim = none ∧ (opened [.delete 4]).opens (cellsNeeded [.delete 4]) + 2
      ≤ (opened [.delete 4]).erasedCount) ∧
    (let s := scarce { opened [.write 5 []] with directory := fullDirectory } 2 none
     s.compaction.phase ≠ .idle ∧ ¬s.erasedCount < 2 ∧
       ¬(s.txn.staging.filter (fun op => (s.entryOf (opIdent op)).isNone)).length ≤ 512 - s.directory.length) ∧
    (let s := scarce (opened [.delete 4]) 2 none
     ¬s.opens (cellsNeeded s.txn.staging) + 2 ≤ s.erasedCount ∧ (calm s).compaction = Compaction.idle ∧ s.store = .ready) := by
  refine ⟨⟨by unfold payloadValid; decide +kernel, opened_accepts _, opened_executesNow _ _ _ _,
    executesNow_of _ _ _ _ ⟨⟨rfl, rfl, rfl⟩, Or.inl rfl, rfl⟩⟩, ?_, ?_, ?_, ?_⟩ <;> decide +kernel

/-- The small store with one tally, of identifier 12. -/
def tallied (gen value : Nat) (bumps : List BumpLoc) : State :=
  { ready with directory :=
      [{ ident := 12, gen, loc := { page := 1, cell := 4 }, stale := 0, body := .tally value bumps }] }

/-- 32 current bumps. -/
def bumps32 : List BumpLoc := (List.range 32).map (fun k => { ordinal := k + 1, loc := { page := 1, cell := 10 + k } })

theorem witness_IncrementChecksAndAdmission :
    (payloadValid .increment [0, 12, 0, 1] ∧ payloadValid .increment [0x0F, 0xFE, 0xFF, 0xFF] ∧
      ready.executesNow .increment 1 [0, 12, 0, 1]) ∧
    (State.executesNow { ready with store := .readOnly } .increment 1 [0, 12, 0, 1] ∧
      State.executesNow { ready with supply := { ready.supply with state := .cautionLong } } .increment 1 [0, 12, 0, 1]) ∧
    (ready.store = .ready ∧ ready.supply.state ≠ .cautionLong ∧ ready.entryOf 4094 = none ∧
      (ready.entryOf 37).map DirEntry.body = some .tombstone ∧ (ready.entryOf 4).map DirEntry.body = some (.blob 12) ∧
      (ready.entryOf 12).map DirEntry.body = some (.tally 100 [])) ∧
    (((tallied 2 4294967295 []).entryOf 12).map DirEntry.body = some (.tally 4294967295 []) ∧
      ((tallied 4294967294 5 bumps32).entryOf 12).map DirEntry.gen = some 4294967294 ∧ 32 ≤ bumps32.length) ∧
    (ready.opens 1 + 2 ≤ ready.erasedCount ∧ ready.compaction.victim = none) ∧
    (let s := scarce ready 1 (some 1); s.compaction.victim ≠ none ∧ s.erasedCount < 2) ∧
    (let s := scarce ready 2 none
     ¬s.opens 1 + 2 ≤ s.erasedCount ∧ s.compaction.phase ≠ .idle ∧ (calm s).compaction = Compaction.idle) := by
  refine ⟨⟨by unfold payloadValid; decide +kernel, by unfold payloadValid; decide +kernel, ready_executesNow _ _ _⟩,
    ⟨executesNow_of _ _ _ _ ⟨⟨rfl, rfl, rfl⟩, Or.inr rfl, rfl⟩, executesNow_of _ _ _ _ ⟨⟨rfl, rfl, rfl⟩, Or.inl rfl, rfl⟩⟩,
    ?_, ?_, ?_, ?_, ?_⟩ <;> decide +kernel

/-- An increment of identifier 12. -/
def incrementing (waiting waitOver : Bool) (run : Option Run) : IncrementRecord :=
  { ident := 12, delta := 5, need := 1, waiting, waitOver, composed := none, failures := 0, run }

/-- The INCREMENT executing with its record. -/
def incrementExecutes (i : IncrementRecord) : State :=
  { ready with executor := { ready.executor with
      executing := some { kind := .increment, tag := 9, payload := [0, 12, 0, 5] }, increment := some i } }

theorem witness_AdmissionAfterTheWait :
    (let s := committing { CommitRecord.fresh 1 with waitOver := true } none
     s.restarting = none ∧ s.executor.executing = some { kind := .commit, tag := 9, payload := [0, 0, 0, 21] } ∧
       s.executor.commit = some { CommitRecord.fresh 1 with waitOver := true } ∧ s.txn.state = .committing ∧ s.store = .ready ∧
       (s.txn.staging.filter (fun op => (s.entryOf (opIdent op)).isNone)).length ≤ 512 - s.directory.length ∧
       s.opens (cellsNeeded s.txn.staging) + 2 ≤ s.erasedCount) ∧
    ((CommitRecord.fresh 1).stage = .waiting ∧ (CommitRecord.fresh 1).waitOver = false) ∧
    (State.finishes { committing { CommitRecord.fresh 1 with waitOver := true } none with store := .readOnly }
      { kind := .commit, tag := 9, payload := [0, 0, 0, 21] }) ∧
    (let s := incrementExecutes (incrementing true true none)
     s.executor.increment = some (incrementing true true none) ∧ s.store = .ready ∧
       s.opens (incrementing true true none).need + 2 ≤ s.erasedCount) ∧
    State.finishes { incrementExecutes (incrementing true true none) with store := .readOnly }
      { kind := .increment, tag := 9, payload := [0, 12, 0, 5] } ∧
    (let s := calm (scarce (committing { CommitRecord.fresh 1 with waitOver := true } none) 2 none)
     s.compaction = Compaction.idle ∧ s.store = .ready ∧ ¬s.opens (cellsNeeded s.txn.staging) + 2 ≤ s.erasedCount ∧
       s.erasedCount < s.opens (incrementing true true none).need + 2) ∧
    (let s : State := { committing { CommitRecord.fresh 1 with waitOver := true } none with directory := fullDirectory }
     ¬([StagedOp.write 5 []].filter (fun op => (s.entryOf (opIdent op)).isNone)).length ≤ 512 - s.directory.length) := by
  refine ⟨by decide +kernel, by decide, ⟨rfl, rfl, rfl, ?_, rfl⟩, by decide +kernel, ⟨rfl, rfl, rfl, ?_, rfl⟩, by decide +kernel,
    by decide +kernel⟩ <;>
  · change (0 : Nat) < 6
    decide

theorem witness_CompactAddsDemand :
    (payloadValid .compact [1] ∧ payloadValid .compact [8] ∧ ready.executesNow .compact 1 [8]) ∧
    State.executesNow { ready with store := .readOnly } .compact 1 [1] ∧
    (ready.store = .ready ∧ ready.supply.state ≠ .cautionLong) ∧
    ((scarce ready 2 none).executesNow .compact 1 [1] ∧ (scarce ready 2 none).compaction.phase ≠ .idle) ∧
    (let s : State := { ready with supply := { ready.supply with state := .caution } }
     s.executesNow .compact 1 [1] ∧ s.supply.state = .caution ∧ s.compaction = Compaction.idle) ∧
    (ready.supply.state = .normal ∧ ready.compaction = Compaction.idle ∧ ready.bestVictim = some 1 ∧
      (calm (scarce ready 2 none)).executesNow .compact 1 [1] ∧ (calm (scarce ready 2 none)).compaction = Compaction.idle) :=
  ⟨⟨by unfold payloadValid; decide, by unfold payloadValid; decide, ready_executesNow _ _ _⟩,
    executesNow_of _ _ _ _ ⟨⟨rfl, rfl, rfl⟩, Or.inr rfl, rfl⟩, by decide,
    ⟨executesNow_of _ _ _ _ ⟨⟨rfl, rfl, rfl⟩, Or.inl rfl, rfl⟩, by decide⟩,
    ⟨executesNow_of _ _ _ _ ⟨⟨rfl, rfl, rfl⟩, Or.inl rfl, rfl⟩, rfl, rfl⟩,
    ⟨rfl, rfl, by decide +kernel, executesNow_of _ _ _ _ ⟨⟨rfl, rfl, rfl⟩, Or.inl rfl, rfl⟩, rfl⟩⟩

/-- FORMAT at work, with its record, what is in flight, and what it asks for. -/
def formatting (f : FormatRecord) (flight : Option Flight) : State :=
  { ready with
    store := .formatting
    executor := { ready.executor with executing := some { kind := .format, tag := 9, payload := [] }, format := some f }
    array := { ready.array with inFlight := flight, executorRequest := if flight.isSome then none else some .program } }

/-- Its record while the mark is still to be written. -/
def unmarked : FormatRecord :=
  { previous := .ready, stage := .marking, erased := [], fallback := none, mark := none, markErased := false, retried := false,
    failures := 0, run := none }

/-- Its record while the mark is in programming at page 0, cell 2. -/
def markWriting (failures : Nat) : FormatRecord :=
  { unmarked with failures, run := some { page := 0, first := 2, words := [7], done := 0 } }

/-- Its record while it erases page 1, with the mark on page 0 and every other page erased. -/
def formatErasing (retried : Bool) : FormatRecord :=
  { unmarked with
    stage := .erasing 1, retried, mark := some 0, erased := (List.finRange 32).filter (fun p => p ≠ 0 ∧ p ≠ 1 ∧ p ≠ 31) }

/-- Its record while it erases the mark's page, the last of the format. -/
def markErasing : FormatRecord := { formatErasing false with stage := .erasing 0, erased := (formatErasing false).erased ++ [1] }

/-- A store whose every page is RETIRED. -/
def allRetired : State :=
  { ready with
    store := .readOnly
    array := { ready.array with
      appendPoint := none
      table := Vector.replicate 32 { state := .retired, eraseCount := 40, sequence := none, used := 2, live := 0 } } }

/-- The last erase of a FORMAT, of its mark's page, which is the OPEN one: its counters stand at 1 and the closing mount
begins. -/
theorem test_last_erase_of_a_format :
    after (fun t => (t.array.appendPoint, t.txn.nextNumber, t.array.nextSequence, t.mount.bind MountRecord.closing))
      (exec (.eraseComplete .ok) (formatting markErasing (some { owner := some .executor, op := .erase 0 31 })))
      = some (none, 1, some 1, some (markErasing.erased ++ [0])) := by decide +kernel

theorem formatting_finishes (s : State) (h : s.restarting = none ∧ s.executor.executing = (formatting unmarked none).executor.executing ∧
    s.link.queue = [] ∧ s.link.transmit.length < 6 ∧ s.link.waiters = []) :
    s.finishes { kind := .format, tag := 9, payload := [] } := h

/-- The small store with a run of the engine in a phase, on page 1, and an operation in flight. -/
def engineIn (phase : Phase) (owner : Option Requester) : State :=
  { ready with
    compaction := { Compaction.idle with phase, victim := if phase = .select then none else some 1, hostDemand := 2 }
    array := { ready.array with inFlight := some { owner, op := .read 1 2 16 } } }

theorem witness_FormatMeetsARun (phase : Phase) (owner : Option Requester) :
    (engineIn phase owner).executesNow .format 1 [] ∧ (engineIn phase owner).txn.state = .none ∧
    (engineIn phase owner).supply.state ≠ .cautionLong ∧ (engineIn phase owner).compaction.phase = phase ∧
    (engineIn .copy none).compaction.victim = some 1 ∧ (∃ p, ((engineIn phase owner).page p).state ≠ .retired) ∧
    (∃ flight, (engineIn phase owner).array.inFlight = some flight ∧ flight.owner = owner) :=
  ⟨executesNow_of _ _ _ _ ⟨⟨rfl, rfl, rfl⟩, Or.inl rfl, rfl⟩, rfl, by change ready.supply.state ≠ _; decide, rfl, rfl,
    ⟨0, by change (ready.page 0).state ≠ _; decide +kernel⟩, _, rfl, rfl⟩

theorem witness_FormatProceeds :
    ((opened []).executesNow .format 1 [] ∧ (opened []).txn.state ≠ .none) ∧
    State.executesNow { ready with supply := { ready.supply with state := .cautionLong } } .format 1 [] ∧
    (ready.executesNow .format 1 [] ∧ ready.txn.state = .none ∧ ready.supply.state ≠ .cautionLong ∧
      ready.compaction.phase = .idle ∧ ∃ p, (ready.page p).state ≠ .retired) ∧
    (allRetired.executesNow .format 1 [] ∧ ∀ p, (allRetired.page p).state = .retired) ∧
    (let s := formatting unmarked none
     s.restarting = none ∧ s.store = .formatting ∧ s.executor.executing = some { kind := .format, tag := 9, payload := [] } ∧
       s.array.inFlight = none ∧ s.chooseRequester = some .executor ∧ s.executor.blobRead = none ∧
       s.openPage = some 0 ∧ s.array.appendPoint = some 2) ∧
    (let s : State := { formatting unmarked none with array := { (formatting unmarked none).array with
       appendPoint := some 128, nextSequence := none } }
     s.chooseRequester = some .executor ∧ s.freeCells = 0 ∧ s.pageSwitch .executor = none ∧ unmarked.fallback = none) ∧
    (let f : FormatRecord := { unmarked with fallback := some 2, erased := [2] }
     let s : State := { formatting f none with array := { (formatting f none).array with appendPoint := some 128 } }
     s.chooseRequester = some .executor ∧ s.freeCells = 0 ∧ f.stage = .marking ∧ f.fallback = some 2) ∧
    ((formatting (formatErasing false) none).chooseRequester = some .executor ∧ (formatErasing false).stage = .erasing 1 ∧
      (formatting { unmarked with stage := .fallbackErase 0 } none).chooseRequester = some .executor) ∧
    (let f : FormatRecord := { unmarked with stage := .fallbackErase 1, retried := true }
     (formatting f (some { owner := some .executor, op := .erase 1 32 })).array.inFlight
       = some { owner := some .executor, op := .erase 1 32 } ∧ f.stage = .fallbackErase 1 ∧ f.retried = true) ∧
    (let f : FormatRecord := { markWriting 2 with erased := [0] }
     f.failures = 2 ∧ f.erased ≠ [] ∧ ready.openPage = some 0) ∧
    (let s := formatting markErasing (some { owner := some .executor, op := .erase 0 31 })
     s.array.inFlight = some { owner := some .executor, op := .erase 0 31 } ∧ markErasing.stage = .erasing 0 ∧
       markErasing.mark = some 0 ∧ s.openPage = some 0 ∧
       (∀ q : PageIx, (s.page q).state ≠ .retired → q ≠ 0 → q ∈ markErasing.erased)) ∧
    (let f : FormatRecord := { unmarked with stage := .fallbackErase 0 }
     (formatting f (some { owner := some .executor, op := .erase 0 31 })).array.inFlight
       = some { owner := some .executor, op := .erase 0 31 } ∧ f.stage = .fallbackErase 0) ∧
    ((formatting (markWriting 2) (some { owner := some .executor, op := .program 0 2 7 })).array.inFlight
        = some { owner := some .executor, op := .program 0 (2 + 0) 7 } ∧ (markWriting 2).failures = 2 ∧
      (markWriting 2).erased = [] ∧ (markWriting 0).failures + 1 < 3) ∧
    ((formatting (formatErasing true) (some { owner := some .executor, op := .erase 1 32 })).array.inFlight
        = some { owner := some .executor, op := .erase 1 32 } ∧ (formatErasing true).stage = .erasing 1 ∧
      (formatErasing true).retried = true ∧ (formatErasing false).retried = false) := by
  refine ⟨⟨opened_executesNow _ _ _ _, ?_⟩, executesNow_of _ _ _ _ ⟨⟨rfl, rfl, rfl⟩, Or.inl rfl, rfl⟩,
    ⟨ready_executesNow _ _ _, ?_, ?_, ?_, 0, ?_⟩, ⟨executesNow_of _ _ _ _ ⟨⟨rfl, rfl, rfl⟩, Or.inr rfl, rfl⟩, ?_⟩,
    ?_, ?_, ?_, ?_, ?_, ?_, ?_, ?_, ?_, ?_⟩ <;> decide +kernel

/-- The small store with eight notices queued, and the frames of the first two waiting. -/
def noticesWait : State :=
  { full ready with
    notices := { ready.notices with
      queue := (List.range 8).map (fun k => { number := k + 1, lost := 255, content := .spaceLow 2 })
      outgoing := [{ kind := 0x62, tag := 1, payload := [0, 2] }, { kind := 0x62, tag := 2, payload := [0, 2] }]
      nextNumber := 9 }
    link := { (full ready).link with waiters := [.noticeUnit, .executor, .noticeUnit] } }

theorem witness_NoticeIsRaised :
    (ready.notices.nextNumber ≤ 255 ∧ ready.notices.outgoing = [] ∧ ready.notices.queue.length < 8 ∧
      ready.link.transmit.length < 6 ∧ ready.link.waiters = [] ∧ ready.supply.resetNHigh = true ∧ ready.restarting = none) ∧
    (let low : State := { ready with supply := { ready.supply with resetNHigh := false } }
     low.notices.nextNumber ≤ 255 ∧ low.supply.resetNHigh = false) ∧
    (let cold : Restarting := { cause := .brownout, cold := true, needsResetHigh := false }
     ({ ready with restarting := some cold } : State).restarting = some cold ∧ cold.cold = true) ∧
    (let s : State := { noticesWait with link := ready.link, notices := { noticesWait.notices with outgoing := [] } }
     s.notices.queue = { number := 1, lost := 255, content := .spaceLow 2 } :: s.notices.queue.drop 1 ∧
       (s.notices.queue.drop 1).length = 7 ∧ s.notices.outgoing = [] ∧ s.link.transmit.length < 6 ∧ s.link.waiters = []) ∧
    (let s : State := { noticesWait with notices := { noticesWait.notices with queue := noticesWait.notices.queue.take 2 } }
     s.notices.queue.length < 8 ∧ 6 ≤ s.link.transmit.length ∧ s.link.waiters ≠ [] ∧
       (∀ f ∈ s.notices.outgoing, ∃ n ∈ s.notices.queue, BitVec.ofNat 8 n.number = f.tag) ∧
       s.link.waiters.count .noticeUnit = s.notices.outgoing.length) ∧
    (let rest := noticesWait.notices.queue.drop 1
     noticesWait.notices.queue = { number := 1, lost := 255, content := .spaceLow 2 } :: rest ∧ rest.length = 7 ∧
       noticesWait.notices.outgoing.map Frame.tag = [1, 2] ∧
       noticesWait.link.waiters = .noticeUnit :: [.executor, .noticeUnit] ∧ 6 ≤ noticesWait.link.transmit.length ∧
       (∀ n ∈ rest, BitVec.ofNat 8 n.number ≠ (1 : Byte)) ∧ (∃ n ∈ rest, BitVec.ofNat 8 n.number = (2 : Byte)) ∧
       [Producer.executor, .noticeUnit].count .noticeUnit = 1) ∧
    (let rest := noticesWait.notices.queue.drop 1
     let stays : State := { noticesWait with
       notices := { noticesWait.notices with outgoing := noticesWait.notices.outgoing.drop 1 }
       link := { noticesWait.link with waiters := [.executor, .noticeUnit] } }
     (∀ f ∈ stays.notices.outgoing, ∃ n ∈ rest, BitVec.ofNat 8 n.number = f.tag) ∧
       stays.link.waiters.count .noticeUnit = stays.notices.outgoing.length ∧ 6 ≤ stays.link.transmit.length ∧
       (full ready).notices.outgoing = [] ∧ (full ready).link.waiters.count .noticeUnit = 0 ∧
       [Producer.executor, .noticeUnit, .noticeUnit] = [.executor] ++ .noticeUnit :: [.noticeUnit] ∧
       Producer.noticeUnit ∉ [Producer.executor]) := by decide +kernel

/-- The small store with requests waiting at the arbiter. -/
def asking (executor compaction : Option RequestOp) : State :=
  { ready with array := { ready.array with executorRequest := executor, compactionRequest := compaction } }

/-- The survey record of a tally's base at page 1, cell 4. -/
def baseRec (gen : Nat) : SurveyRec := { first := 4, entry := .tallyBase 0 12 20 gen 100, committed := true }

/-- The engine at the record of tally 12, the last of its walk, with its request. -/
def engineAt (s : State) (action : Action) (op : RequestOp) : State :=
  { s with
    compaction := { Compaction.idle with phase := .copy, victim := some 1, walk := some 0, survey := [baseRec 2], action }
    array := { s.array with
      table := s.array.table.set 1 { s.page 1 with state := .victim }, compactionRequest := some op } }

/-- A fold of that tally as composed. -/
def foldOf12 : FoldEntry := { gen := 3, value := 100, words := entryWords (.tallyBase 3 12 0 3 100) [] }

theorem witness_ArbiterChoosesByErasedCount :
    State.reset.mount ≠ none ∧
    (ready.mount = none ∧ ready.executorEligible = false ∧ ready.compactionEligible = false) ∧
    ((asking (some .program) none).executorEligible = true ∧ (asking (some .program) none).compactionEligible = false) ∧
    ((asking none (some .read)).executorEligible = false ∧ (asking none (some .read)).compactionEligible = true) ∧
    ((asking (some .program) (some .erase)).executorEligible = true ∧
      (asking (some .program) (some .erase)).compactionEligible = true) ∧
    (let s : State := { asking (some .program) (some .erase) with supply := { ready.supply with state := .caution } }
     s.supply.state ≠ .normal ∧ s.array.executorRequest = some .program ∧ s.array.compactionRequest = some .erase) ∧
    (let s := engineAt ready (.fold (some foldOf12)) .program
     s.array.compactionRequest = some .program ∧ s.compaction.walk = some 0 ∧
       s.compaction.survey[0]? = some (baseRec 2) ∧ (baseRec 2).entry = .tallyBase 0 12 20 2 100 ∧
       entryIdent (baseRec 2).entry = some 12 ∧ s.compaction.action = .fold (some foldOf12)) ∧
    (let i := incrementing false false none
     let s := incrementExecutes i
     s.executor.increment = some i ∧ i.ident = 12 ∧
       ({ i with composed := some { isFold := false, gen := 2, ordinal := 1, value := 105, saturated := false, words := [7] } }
         : IncrementRecord).composed ≠ none) ∧
    (let s := committing writing none
     s.txn.state = .committing ∧ s.executor.commit = some writing ∧ writing.granted = true ∧ opIdent (.delete 4) = 4) ∧
    ((asking (some .read) none).executor.format = none ∧ State.reset.array.mountRequest = some .read ∧
      ready.chooseRequester = none) := by decide +kernel

theorem witness_GrantStartsTheOperation :
    (State.reset.restarting = none ∧ State.reset.array.inFlight = none ∧ State.reset.mount = some (MountRecord.start none) ∧
      State.reset.nothingToTake ∧ (MountRecord.start none).toErase = [] ∧ State.reset.array.mountRequest = some .read) ∧
    (let s : State := { State.reset with
       mount := some { MountRecord.start none with toErase := [2] }, array := { State.reset.array with mountRequest := some .erase } }
     s.mount = some { MountRecord.start none with toErase := [2] } ∧ s.nothingToTake ∧ s.array.mountRequest = some .erase ∧
       s.supply.state = .normal) ∧
    (let s : State := { asking (some .read) none with executor := { (busy ready .read).executor with blobRead := some 4 } }
     s.chooseRequester = some .executor ∧ s.executor.executing ≠ none ∧ (s.entryOf 4).isSome = true) ∧
    (let s := { committing writing none with array := { (committing writing none).array with executorRequest := some .program } }
     s.chooseRequester = some .executor ∧ s.executor.executing ≠ none ∧ s.executor.blobRead = none ∧
       s.executor.commit = some writing ∧ writing.run ≠ none) ∧
    (let s : State := { asking none (some .erase) with
       compaction := { Compaction.idle with phase := .erase, victim := some 1, action := .erase false } }
     s.chooseRequester = some .compaction ∧ s.nothingToTake ∧ s.compaction.run = none ∧ s.compaction.action = .erase false ∧
       s.compaction.victim = some 1) ∧
    (let run : Run := { page := 0, first := 2, words := [7, 8], done := 1 }
     let i := incrementing false false (some run)
     let s : State := { incrementExecutes i with array := (asking (some .program) none).array }
     s.chooseRequester = some .executor ∧ s.executor.executing ≠ none ∧ s.executor.blobRead = none ∧ s.executor.commit = none ∧
       s.executor.increment = some i ∧ i.run = some run) ∧
    (let e := engineAt ready (.fold (some foldOf12)) .program
     let s : State := { e with compaction := { e.compaction with run := some { page := 0, first := 2, words := [7, 8], done := 1 } } }
     s.chooseRequester = some .compaction ∧ s.compaction.run ≠ none ∧ s.compaction.action = .fold (some foldOf12) ∧
       s.compaction.walk = some 0 ∧ s.compaction.survey[0]? = some (baseRec 2) ∧ entryIdent (baseRec 2).entry = some 12 ∧
       (s.entryOf 12).map DirEntry.body = some (.tally 100 []) ∧ (s.entryOf 12).map DirEntry.gen = some 2 ∧
       2 + 1 = foldOf12.gen) :=
  ⟨⟨rfl, rfl, rfl, Or.inr (Or.inl rfl), rfl, rfl⟩, ⟨rfl, Or.inr (Or.inl rfl), rfl, rfl⟩, by decide +kernel, by decide +kernel,
    ⟨by decide +kernel, ready_nothingToTake, rfl, rfl, rfl⟩, by decide +kernel, by decide +kernel⟩

/-- A commit before the first cell of its entry, or of its marker. -/
def placing (position : Nat) : CommitRecord :=
  { CommitRecord.fresh 1 with stage := .programming, position }

/-- A commit that relocates its one entry. -/
def relocating : CommitRecord := { marking with markerGranted := false, run := none, relocate := [0] }

/-- The commit with its next program requested. -/
def commitAsks (c : CommitRecord) : State :=
  { committing c none with array := { (committing c none).array with executorRequest := some .program } }

theorem witness_CommitPlacesAtTheAppendPoint :
    let exact (c : CommitRecord) : State :=
      { commitAsks c with array := { (commitAsks c).array with appendPoint := some 126 } }
    (let c := placing 0
     let s := commitAsks c
     s.chooseRequester = some .executor ∧ s.executor.executing ≠ none ∧ s.executor.blobRead = none ∧
       s.executor.commit = some c ∧ c.run = none ∧ c.relocate = [] ∧ s.txn.number = some 21 ∧ s.openPage = some 0 ∧
       s.array.appendPoint = some 4 ∧ c.commitPage = none ∧ stillToPlace c s.txn.staging ≤ 128 - 4 ∧
       stillToPlace c (exact c).txn.staging ≤ 128 - 126 ∧ c.position < c.items.length ∧
       (c.items[0]?.map CommitItem.composed) = some none ∧ s.txn.staging[c.position]? = some (.delete 4)) ∧
    (let c : CommitRecord := { writing with run := none }
     (commitAsks c).chooseRequester = some .executor ∧
       c.items[0]?.bind CommitItem.composed = some { gen := 4, words := [7] }) ∧
    ((commitAsks relocating).chooseRequester = some .executor ∧ relocating.relocate = 0 :: [] ∧
      (relocating.items[0]?.bind CommitItem.composed).isSome = true ∧ relocating.commitPage = some 0) ∧
    (commitAsks (placing 1)).chooseRequester = some .executor ∧ (placing 1).position = (placing 1).items.length := by
  decide +kernel

theorem witness_CommitOpensAPage :
    (let c := placing 0
     let s : State := { commitAsks c with array := { (commitAsks c).array with appendPoint := some 127 } }
     s.restarting = none ∧ s.array.inFlight = none ∧ s.chooseRequester = some .executor ∧ s.executor.commit = some c ∧
       s.openPage = some 0 ∧ s.freeCells < stillToPlace c s.txn.staging ∧ (s.pageSwitch .executor).isSome = true) ∧
    (let s := scarce (commitAsks { writing with run := none }) 0 none
     s.chooseRequester = some .executor ∧ s.freeCells < stillToPlace { writing with run := none } s.txn.staging ∧
       s.pageSwitch .executor = none ∧ s.compaction.phase ≠ .idle ∧ writing.programmed = true ∧
       (placing 0).programmed = false ∧ (calm s).compaction = Compaction.idle ∧ (calm s).store = .ready ∧
       (calm s).pageSwitch .executor = none) ∧
    State.finishes (scarce (commitAsks (placing 0)) 0 none) { kind := .commit, tag := 9, payload := [0, 0, 0, 21] } :=
  ⟨by decide +kernel, by decide +kernel, rfl, rfl, rfl, by change (0 : Nat) < 6; decide, rfl⟩

theorem witness_CommitAttemptsComplete :
    let flight : Option Flight := some { owner := some .executor, op := .program 0 2 7 }
    let two : CommitRecord := { writing with run := some { page := 0, first := 2, words := [7, 8], done := 0 } }
    (let s := committing writing flight
     s.array.inFlight = some { owner := some .executor, op := .program 0 (2 + 0) 7 } ∧ s.restarting = none ∧
       s.executor.commit = some writing ∧ s.txn.state = .committing ∧ writing.relocate = [] ∧
       writing.items[writing.position]? = some
         { composed := some { gen := 4, words := [7] }, final := none, finalStands := false, failures := 0 }) ∧
    ((committing two flight).executor.commit = some two ∧ two.run.map (fun r => r.words.length) = some 2) ∧
    (relocating.relocate = 0 :: [] ∧ relocating.items[0]?.bind CommitItem.final = some { page := 0, cell := 2 }) ∧
    (marking.position = marking.items.length ∧ marking.markerFailures + 1 < 3 ∧
      ({ marking with markerFailures := 2 } : CommitRecord).markerFailures = 2) ∧
    (committing writing flight).finishes { kind := .commit, tag := 9, payload := [0, 0, 0, 21] } ∧
    State.txn { committing writing flight with txn := ready.txn } = ready.txn ∧ ready.txn.state ≠ .committing := by
  refine ⟨by decide +kernel, by decide +kernel, by decide +kernel, by decide +kernel, committing_finishes _ _, rfl, by decide⟩

theorem witness_PageSwitchOpensTheLeastWorn :
    (ready.leastWorn = some 2 ∧ ready.array.nextSequence = some 3 ∧ (3 : Nat) < 4294967295 ∧ 4 < ready.erasedCount - 1) ∧
    ((scarce ready 0 none).leastWorn = none) ∧
    State.leastWorn { ready with array := { ready.array with nextSequence := some 4294967295 } } = some 2 ∧
    (let s := scarce ready 5 none; s.leastWorn = some 2 ∧ s.erasedCount = 5 ∧ s.compaction.phase ≠ .idle) ∧
    (let s := calm (scarce ready 5 none)
     s.leastWorn = some 2 ∧ s.erasedCount = 5 ∧ s.compaction = Compaction.idle ∧ s.store = .ready) := by
  decide +kernel

/-- The engine holds page 1, with survey records at cells 2 and 4, and its walk has passed those at the other cells. -/
def held (ahead : List Nat) (s : State) : State :=
  { s with
    compaction := { Compaction.idle with
      phase := .copy, victim := some 1, walk := some 1
      survey := ((List.filter (fun k => decide (k ∉ ahead)) [2, 4]) ++ ahead).map (fun first =>
        { first, entry := .tombstone 0 4 1 1, committed := true }) }
    array := { s.array with table := s.array.table.set 1 { s.page 1 with state := .victim } } }

theorem witness_CommitIsAppliedAtItsMarker :
    let s := committing marking (some { owner := some .executor, op := .program 0 3 9 })
    (s.array.inFlight = some { owner := some .executor, op := .program 0 (3 + 0) 9 } ∧
      s.finishes { kind := .commit, tag := 9, payload := [0, 0, 0, 21] } ∧ s.txn.state = .committing ∧
      s.txn.number = some 21 ∧ s.executor.commit = some marking ∧
      marking.run = some { page := 0, first := 3, words := [9], done := 0 } ∧ marking.relocate = [] ∧
      marking.position = marking.items.length ∧ marking.items.length = s.txn.staging.length ∧ directorySorted s.directory ∧
      (s.txn.staging.map opIdent).Nodup ∧ (∀ item ∈ marking.items, item.final ≠ none ∧ item.composed ≠ none)) ∧
    s.unstaged 12 ∧ 2 ≤ (s.page 1).live ∧ s.compaction.victim = none ∧
    (held [4] s).passedInVictim { page := 1, cell := 2 } = true ∧ (held [4] s).passedInVictim { page := 1, cell := 4 } = false :=
  ⟨⟨rfl, committing_finishes _ _, rfl, rfl, rfl, rfl, rfl, rfl, rfl, by unfold directorySorted; decide, by decide, by decide⟩,
    by unfold State.unstaged; decide, by decide +kernel⟩

/-- A commit that deletes an identifier, and an INCREMENT's fold, count what they supersede in the victim behind the walk. -/
theorem test_victim_counts :
    after (fun t => t.compaction.victimCounts)
      (exec (.programComplete .ok) (held [4] (committing marking (some { owner := some .executor, op := .program 0 3 9 }))))
      = some [(4, 1)] ∧
    (State.applyFold (held [4] ready) 12 3 100 { page := 0, cell := 2 }).compaction.victimCounts = [] ∧
    (State.applyFold (held [2] ready) 12 3 100 { page := 0, cell := 2 }).compaction.victimCounts = [(12, 1)] := by
  decide +kernel

/-- The bump of the increment while it is in programming at page 0, cell 2. -/
def bumpEntry : IncrementEntry :=
  { isFold := false, gen := 2, ordinal := 1, value := 105, saturated := false, words := [7] }

/-- The INCREMENT with an entry composed, at work at page 0, cell 2. -/
def incrementWrites (entry : IncrementEntry) (words : List CellWord) (failures done : Nat) (flight : Option Flight) : State :=
  let i : IncrementRecord := { incrementing false false (some { page := 0, first := 2, words, done }) with
    composed := some entry, failures }
  { incrementExecutes i with array := { ready.array with inFlight := flight } }

theorem incrementWrites_finishes (e : IncrementEntry) (w : List CellWord) (n d : Nat) (f : Option Flight) :
    (incrementWrites e w n d f).finishes { kind := .increment, tag := 9, payload := [0, 12, 0, 5] } :=
  ⟨rfl, rfl, rfl, by change (0 : Nat) < 6; decide, rfl⟩

theorem witness_IncrementEntryCompletes :
    (let i := incrementing false false none
     let s : State := { incrementExecutes i with array := { ready.array with executorRequest := some .program } }
     s.restarting = none ∧ s.executor.commit = none ∧ s.executor.increment = some i ∧
       (s.entryOf i.ident).map DirEntry.body = some (.tally 100 []) ∧ s.array.inFlight = none ∧
       s.chooseRequester = some .executor ∧ s.executor.executing ≠ none ∧ s.executor.blobRead = none ∧ i.run = none ∧
       i.composed = none ∧ s.openPage = some 0 ∧ s.array.appendPoint = some 2 ∧ ¬bumps32.length < 32) ∧
    (let s := incrementWrites bumpEntry [7] 0 0 (some { owner := some .executor, op := .program 0 2 7 })
     s.array.inFlight = some { owner := some .executor, op := .program 0 (2 + 0) 7 } ∧
       s.finishes { kind := .increment, tag := 9, payload := [0, 12, 0, 5] } ∧ bumpEntry.isFold = false) ∧
    (let s := incrementWrites { bumpEntry with isFold := true, gen := 3 } [7, 8] 0 1
       (some { owner := some .executor, op := .program 0 3 8 })
     s.array.inFlight = some { owner := some .executor, op := .program 0 (2 + 1) 8 } ∧
       s.finishes { kind := .increment, tag := 9, payload := [0, 12, 0, 5] } ∧ s.compaction.victim = none ∧
       2 ≤ (s.page 1).live ∧ (held [2] s).passedInVictim { page := 1, cell := 4 } = true) :=
  ⟨by decide +kernel, ⟨rfl, incrementWrites_finishes _ _ _ _ _, rfl⟩,
    ⟨rfl, incrementWrites_finishes _ _ _ _ _, rfl, by decide +kernel⟩⟩

theorem witness_IncrementAttemptsComplete :
    (let s := incrementWrites { bumpEntry with isFold := true } [7, 8] 2 0
       (some { owner := some .executor, op := .program 0 2 7 })
     s.restarting = none ∧ s.executor.executing = some { kind := .increment, tag := 9, payload := [0, 12, 0, 5] } ∧
       s.executor.commit = none ∧ s.array.inFlight = some { owner := some .executor, op := .program 0 (2 + 0) 7 } ∧
       s.executor.increment.map (fun i => i.failures) = some 2 ∧ 0 + 1 < [7, 8].length ∧ s.openPage = some 0) ∧
    (let i : IncrementRecord := { incrementing false false none with composed := some bumpEntry }
     let s : State := { incrementExecutes i with array := { ready.array with
       executorRequest := some .program, appendPoint := some 128 } }
     s.chooseRequester = some .executor ∧ s.executor.blobRead = none ∧ i.run = none ∧
       s.freeCells < bumpEntry.words.length ∧ (s.pageSwitch .executor).isSome = true) ∧
    (let i : IncrementRecord := { incrementing false false none with composed := some bumpEntry }
     let s := scarce { incrementExecutes i with array := { ready.array with executorRequest := some .program } } 0 none
     s.chooseRequester = some .executor ∧ s.freeCells < bumpEntry.words.length ∧ s.pageSwitch .executor = none ∧
       s.compaction.phase ≠ .idle ∧ (calm s).compaction = Compaction.idle ∧ (calm s).pageSwitch .executor = none) ∧
    (let i := incrementing false false none
     let s : State := { incrementExecutes i with array := { (asking (some .program) none).array with appendPoint := some 127 } }
     i.composed = none ∧ (s.entryOf i.ident).map DirEntry.body = some (.tally 100 []) ∧ ¬bumps32.length < 32 ∧
       s.chooseRequester = some .executor ∧ s.freeCells < 2 ∧ (s.pageSwitch .executor).isSome = true) := by decide +kernel

/-- The open header of a switch to page 0 in flight for a requester. -/
def headerOf (who : Requester) (s : State) : State :=
  { s with array := { s.array with inFlight := some { owner := some who, op := .openHeader 0 (openHeader 2) } } }

/-- The header of the engine's sealing completes: with the supply NORMAL it takes the victim, and else it stays in SELECT. -/
theorem test_engine_chooses_after_its_header :
    let sealing (state : SupplyState) : State := { headerOf .compaction ready with
      compaction := { Compaction.idle with phase := .select, action := .seal, hostDemand := 2 }
      supply := { ready.supply with state } }
    after (fun t => (t.compaction.phase, t.compaction.victim)) (exec (.programComplete .ok) (sealing .normal))
      = some (.copy, some 1) ∧
    after (fun t => (t.compaction.phase, t.compaction.action)) (exec (.programComplete .verifyFail) (sealing .caution))
      = some (.select, .none) := by decide +kernel

theorem witness_CompletionsReachTheCells :
    (let s := committing writing (some { owner := some .executor, op := .program 0 2 7 })
     s.array.inFlight = some { owner := some .executor, op := .program 0 2 7 } ∧ s.array.cells.wf = true) ∧
    (let s : State := { committing writing (some { owner := some .executor, op := .program 0 2 7 }) with
       restarting := some { cause := .resetLine, cold := false, needsResetHigh := true } }
     s.restarting ≠ none) ∧
    (let s := committing writing (some { owner := some .executor, op := .openHeader 0 (openHeader 2) })
     s.restarting = none ∧ s.array.inFlight = some { owner := some .executor, op := .openHeader 0 (openHeader 2) } ∧
       s.executor.executing ≠ none ∧ s.executor.commit = some writing ∧ s.txn.state = .committing) ∧
    ((headerOf .executor (committing writing none)).finishes { kind := .commit, tag := 9, payload := [0, 0, 0, 21] } ∧
      ready.txn.state ≠ .committing) ∧
    (let s := headerOf .executor (incrementWrites bumpEntry [7] 0 0 none)
     s.executor.executing ≠ none ∧ s.executor.commit = none ∧ s.executor.increment ≠ none) ∧
    (let s := headerOf .executor (formatting unmarked none)
     s.executor.executing ≠ none ∧ s.executor.commit = none ∧ s.executor.format ≠ none) ∧
    (headerOf .compaction (engineAt ready (.copy [7] true) .program)).nothingToTake ∧
    (let s := headerOf .compaction (engineAt ready (.copy [7] true) .program)
     s.compaction.stopping = false ∧ s.compaction.action = .copy [7] true ∧ s.compaction.victim = some 1 ∧
       (1 : PageIx) ≠ 0 ∧ s.compaction.run = none) ∧
    (let s : State := { headerOf .compaction ready with
       compaction := { Compaction.idle with phase := .select, action := .seal, hostDemand := 2, runVictims := 1 } }
     s.compaction.stopping = false ∧ s.supply.state = .normal ∧ s.bestVictim = some 1 ∧
       s.compaction = { Compaction.selecting 2 false 1 0 with action := .seal }) ∧
    (let s : State := { ready with array := { ready.array with
       cells := [(127, .indeterminate), (128, .indeterminate)]
       inFlight := some { owner := some .mount, op := .erase 0 5 } } }
     s.array.inFlight = some { owner := some .mount, op := .erase 0 5 } ∧ s.array.cells.wf = true ∧
       128 / 128 ≠ (0 : PageIx).val) := by
  refine ⟨?_, ?_, ?_, ⟨committing_finishes writing _, ?_⟩, ?_, ?_, ready_nothingToTake, ?_, ?_, ?_⟩ <;> decide +kernel

/-- A mount in its ERASE phase. -/
def mountErasing (retried : Bool) : State :=
  { State.reset with
    mount := some { MountRecord.start none with toErase := [2, 3], retried }
    array := { State.reset.array with inFlight := some { owner := some .mount, op := .erase 2 5 }, mountRequest := none } }

/-- A mount of the small store that reads its last cells. -/
def mountReading (readIndex : Nat) : State :=
  { State.reset with
    mount := some { MountRecord.start none with readIndex, pageWords := List.replicate 112 blankCell }
    array := { State.reset.array with
      inFlight := some { owner := some .mount, op := .read (Fin.ofNat 32 (readIndex / 8)) (readIndex % 8 * 16) 16 }
      mountRequest := none } }

theorem witness_MountReadsAndJudges :
    ((mountReading 255).restarting = none ∧
      (mountReading 255).array.inFlight = some { owner := some .mount, op := .read 31 112 16 } ∧
      (mountReading 255).link.queue = [] ∧ 6 % 8 ≠ 7 ∧ 7 % 8 = 7) ∧
    (mountReading 7).nothingToTake ∧
    (let blank (p : PageIx) : PageScan :=
       { page := p, wear := some 0, sequence := none, cls := .erased, extent := 2, entries := [] }
     let erasedOnly := (List.finRange 31).map (fun p => blank (Fin.ofNat 32 p.val)) ++ [blank 31]
     (erasedOnly.map PageScan.page).Nodup ∧ eraseOrder erasedOnly = [] ∧
       eraseOrder (erasedOnly.take 31 ++ [{ blank 31 with cls := .pendingErase }]) = [31]) ∧
    (List.replicate 128 blankCell).length = 128 ∧
    (judgeEntry [blobCell]).isSome = true ∧ wearCount (wearHeader 5) ≠ none ∧ openSequence (openHeader 2) ≠ none ∧
    openHeader 2 ≠ blankCell :=
  ⟨by decide +kernel, Or.inr (Or.inl rfl), by decide +kernel⟩

/-- What READ found of a page with some entries. -/
def scanned (page : PageIx) (sequence : Option Nat) (cls : PageClass) (entries : List (Nat × Entry)) : PageScan :=
  { page, wear := some 5, sequence, cls, extent := 10, entries }

theorem witness_MountResolves :
    (let x := scanned 3 (some 7) .holdsEntries []
     let y := scanned 4 (some 8) .holdsEntries [(2, .release 3 7), (3, .formatMark)]
     let z := scanned 5 none .pendingErase []
     let w := scanned 6 (some 9) .pendingErase []
     (afterDiscards [x, y, z]).map PageScan.cls = [.pendingErase, .pendingErase, .pendingErase] ∧
       eraseOrder [w, y, x, z] = [5, 3, 4, 6] ∧ ([w, y, x, z].map PageScan.page).Nodup ∧
       mountEraseCount [w, y, x, z] = 5) ∧
    (let base : Swept := { loc := { page := 3, cell := 2 }, entry := .tallyBase 0 12 20 2 100 }
     let marker : Swept := { loc := { page := 3, cell := 4 }, entry := .marker 20 1 }
     let bump : Swept := { loc := { page := 3, cell := 5 }, entry := .bump 1 12 5 2 }
     matchingMarkers [] [base, marker] = [(20, 3)] ∧ isCandidate [(20, 3)] base = true ∧
       currentEntries [base, bump] = [(12, base)] ∧
       currentBumps [base, bump] 12 2 = [({ ordinal := 1, loc := { page := 3, cell := 5 } }, 5)] ∧
       commitPageOf [(20, 3)] 20 = some 3) ∧
    (let r := resolve none [scanned 3 (some 7) .holdsEntries
       [(2, .tallyBase 0 12 20 2 100), (4, .marker 20 1), (5, .bump 1 12 5 2), (6, .marker 30 4)]]
     r.directory = [{ ident := 12, gen := 2, loc := { page := 3, cell := 2 }, stale := 0
                      body := .tally 105 [{ ordinal := 1, loc := { page := 3, cell := 5 } }] }] ∧
       r.torn = 1 ∧ r.lastCommitted = 20 ∧ r.nextNumber = 31 ∧ r.nextSequence = some 8 ∧ r.carry = []) := by
  decide +kernel

/-- What RESOLVE left of a store with no record. -/
def resolved : MountResult :=
  { directory := [], carry := [], nextSequence := some 4, nextNumber := 31, torn := 1, lastCommitted := 20, formatMark := false,
    truncated := false }

/-- A mount about to settle: page 1 kept with free cells and the highest number, that many pages ERASED, and the rest full,
page 0 with dead cells. -/
def settling (deferred : Bool) (erasedPages : Nat) : State :=
  { State.reset with
    notices := { State.reset.notices with deferred }
    array := { State.reset.array with
      mountRequest := none
      table := Vector.ofFn (fun p : PageIx =>
        if p = 1 then { state := .sealed, eraseCount := 3, sequence := some 900, used := 60, live := 19 }
        else if p.val < 2 + erasedPages ∧ p ≠ 0 then erased 5
        else { state := .sealed, eraseCount := 3, sequence := some (1 + p.val), used := 128, live := if p = 0 then 100 else 126 }) } }

/-- The closing mount of a FORMAT at its end. -/
def formatCloses : State := formatting { unmarked with stage := .closing } none

theorem witness_MountErasesAndSettles (retried : Bool) :
    ((mountErasing retried).restarting = none ∧
      (mountErasing retried).array.inFlight = some { owner := some .mount, op := .erase 2 5 } ∧
      (mountErasing retried).nothingToTake ∧
      (mountErasing retried).mount = some { MountRecord.start none with toErase := [2, 3], retried } ∧
      ({ MountRecord.start none with toErase := [2, 3], retried } : MountRecord).toErase = 2 :: 3 :: []) ∧
    (let m : MountRecord := { MountRecord.start none with toErase := [2], result := some resolved }
     let s : State := { mountErasing false with mount := some m }
     s.mount = some m ∧ m.toErase = [2] ∧ m.result = some resolved ∧ s.executor.commit = none ∧ s.link.queue = []) ∧
    (∀ deferred store, (settling deferred store).restarting = none ∧ (settling deferred store).compaction = Compaction.idle ∧
      (settling deferred store).supply.resetNHigh = true ∧ (settling deferred store).notices.queue.length < 7 ∧
      (settling deferred store).notices.deferred = deferred) ∧
    ((settling false 2).page 1).state = .sealed ∧ ((settling false 2).page 1).used < 128 ∧
    (formatCloses.restarting = none ∧ formatCloses.compaction = Compaction.idle ∧
      formatCloses.finishes { kind := .format, tag := 9, payload := [] }) :=
  ⟨⟨rfl, rfl, Or.inr (Or.inl rfl), rfl, rfl⟩, ⟨rfl, rfl, rfl, rfl, rfl⟩, fun _ _ => ⟨rfl, rfl, rfl, Nat.zero_lt_succ 6, rfl⟩, by decide +kernel,
    by decide +kernel, rfl, rfl, formatting_finishes formatCloses ⟨rfl, rfl, rfl, by decide, rfl⟩⟩

/-- What the settling of a mount leads to: the demand of fewer than 2 ERASED pages in READY takes the victim, and READ_ONLY
only keeps it; a START is queued, and behind it the SUPPLY notice that was deferred. -/
theorem test_settling :
    ((settling false 1).settleMount (MountRecord.start none) resolved).compaction.victim = some 0 ∧
    ((settling false 1).settleMount (MountRecord.start none) { resolved with nextSequence := none }).compaction
      = { Compaction.idle with automaticDemand := true } ∧
    ((settling true 2).settleMount (MountRecord.start none) resolved).notices.queue.map (fun n => noticeCode n.content)
      = [0x60, 0x65] := by decide +kernel

/-- The closing mount of a FORMAT answers it and raises no START. -/
theorem test_format_closes :
    let t := formatCloses.settleMount (MountRecord.start (some [])) resolved
    t.link.transmit = [{ kind := 0xA7, tag := 9, payload := [0x00, 31] }] ∧ t.executor.executing = none ∧
      t.executor.format = none ∧ t.notices.queue = [] ∧ t.notices.report.cause = formatCloses.notices.report.cause ∧
      t.store = .ready := by decide +kernel

theorem witness_VictimHasTheMostDeadCells : ready.bestVictim = some 1 ∧ (scarce ready 2 none).bestVictim = none := by
  decide +kernel

/-- The engine at its victim's erase. -/
def victimErases (second : Bool) : State :=
  { ready with
    compaction := { Compaction.idle with phase := .erase, victim := some 1, action := .erase second, hostDemand := 1 }
    array := { ready.array with inFlight := some { owner := some .compaction, op := .erase 1 32 } } }

theorem witness_VictimIsComplete (second : Bool) :
    (let s := victimErases second
     s.restarting = none ∧ s.array.inFlight = some { owner := some .compaction, op := .erase 1 32 } ∧ s.nothingToTake ∧
       s.compaction.action = .erase second ∧ s.compaction.victim = some 1 ∧ s.store = .ready ∧
       6 ≤ ((List.finRange 32).filter (fun q => q ≠ 1 ∧ (s.page q).state ≠ .retired)).length) ∧
    ((List.finRange 32).filter (fun q => q ≠ 1 ∧ (allRetired.page q).state ≠ .retired)).length < 6 ∧
    (∀ store : StoreState, store = .readOnly ∨ store = .formatting → store ≠ .mounting ∧ store ≠ .ready) :=
  ⟨⟨rfl, rfl, ready_nothingToTake, rfl, rfl, rfl, by cases second <;> decide +kernel⟩, by decide +kernel,
    by rintro _ (rfl | rfl) <;> decide⟩

/-- The engine reaches tally 12 with a walk position at its base, while a transaction stages the tally. -/
def reaching (folded : List Nat) (gen : Nat) (staging : List StagedOp) : State :=
  { engineAt ready .none .read with
    directory := [{ ident := 12, gen, loc := { page := 1, cell := 4 }, stale := 0, body := .tally 100 [] }]
    compaction := { (engineAt ready .none .read).compaction with folded, survey := [baseRec gen] }
    txn := { state := .committing, number := some 21, idleRunning := false, nextNumber := 22, staging }
    executor := { ready.executor with commit := some writing } }

theorem test_walk_reaches_a_tally :
    let arrived (s : State) := (s.walk.compaction.action, s.walk.compaction.folded, s.walk.array.compactionRequest)
    arrived (reaching [] 2 [.delete 12]) = (.awaitCommit, [], none) ∧
      arrived (reaching [] 2 [.delete 13]) = (.fold none, [12], some .program) ∧
      arrived (reaching [] 4294967294 []) = (.readCopy, [12], some .read) ∧
      arrived (reaching [12] 2 [.delete 12]) = (.readCopy, [12], some .read) := by decide +kernel

theorem witness_CompactionSurveysAndWalks :
    (let s := engineAt ready .survey .read
     s.restarting = none ∧ s.compaction.victim = some 1 ∧ s.array.inFlight = none ∧
       s.chooseRequester = some .compaction ∧ s.compaction.run = none ∧ s.compaction.action = .survey) ∧
    (let s := engineAt ready .readCopy .read
     s.chooseRequester = some .compaction ∧ s.compaction.action = .readCopy ∧ s.compaction.walk = some 0 ∧
       s.compaction.survey[0]? = some (baseRec 2) ∧ (versionOf (baseRec 2).entry).isSome = true ∧
       s.compaction.stopping = false ∧ (s.page 1).used = 60 ∧ s.compaction.surveyed = []) ∧
    ((engineIn .copy (some .compaction)).array.inFlight = some { owner := some .compaction, op := .read 1 2 16 } ∧
      ({ (engineIn .copy (some .compaction)).compaction with stopping := true } : Compaction).stopping = true ∧
      ready.compaction.walk = none) ∧
    ready.nothingToTake ∧
    (let s := engineAt ready .none .read
     (baseRec 2).committed = true ∧ (s.entryOf 12).map DirEntry.loc = some { page := 1, cell := 4 } ∧
       12 ∉ s.compaction.folded ∧ s.txn.state ≠ .committing ∧ (s.entryOf 12).map DirEntry.gen = some 2 ∧
       entryIdent (baseRec 2).entry = some 12 ∧ entryIdent (.marker 20 1) = none ∧ s.compaction.survey[1]? = none) ∧
    (let words := entryWords (.tallyBase 2 12 20 3 100) []
     judgeEntry words = some (.tallyBase 2 12 20 3 100) ∧ words.length = 2 ∧
       judgeEntry (copyWords words) = some (.tallyBase 3 12 20 3 100)) ∧
    (versionOf (.blob 0 4 20 3 12) = some (4, 20, false) ∧ versionOf (.tombstone 1 37 20 3) = some (37, 20, true)) :=
  ⟨by decide +kernel, by decide +kernel, by decide, ready_nothingToTake, by decide +kernel⟩

/-- The engine with a run in programming at page 0, cell 2. -/
def engineWrites (action : Action) (words : List CellWord) (done failures : Nat) : State :=
  { engineAt ready action .program with
    compaction := { (engineAt ready action .program).compaction with
      run := some { page := 0, first := 2, words, done }, failures }
    array := { (engineAt ready action .program).array with
      appendPoint := some 4, compactionRequest := none
      inFlight := some { owner := some .compaction, op := .program 0 (2 + done) 7 } } }

theorem witness_CompactionEntriesComplete :
    (let s := engineAt ready (.fold none) .program
     s.restarting = none ∧ s.compaction.victim = some 1 ∧ (s.page 1).state = .victim ∧ s.array.inFlight = none ∧
       s.chooseRequester = some .compaction ∧ s.compaction.run = none ∧ s.openPage = some 0 ∧
       s.array.appendPoint = some 2 ∧ s.compaction.action = .fold none ∧ entryGen (baseRec 2).entry = 2 ∧
       (s.entryOf 12).map DirEntry.gen = some 2 ∧ (s.entryOf 12).map DirEntry.body = some (.tally 100 [])) ∧
    ready.nothingToTake ∧
    ((engineAt ready .release .program).chooseRequester = some .compaction ∧
      (engineAt ready (.copy [7] true) .program).chooseRequester = some .compaction) ∧
    (let s : State := { engineAt ready .release .program with array := { (engineAt ready .release .program).array with
       table := Vector.replicate 32 { state := .victim, eraseCount := 0, sequence := some 1, used := 3, live := 0 } } }
     s.chooseRequester = some .compaction ∧ s.openPage = none ∧ s.pageSwitch .compaction = none ∧ (s.page 1).state = .victim) ∧
    (let e := engineAt ready (.fold none) .program
     let s : State := { e with array := { e.array with appendPoint := some 127 } }
     s.chooseRequester = some .compaction ∧ s.freeCells < 2 ∧ (s.pageSwitch .compaction).isSome = true) ∧
    (let e := engineAt (tallied 5 100 []) (.fold (some foldOf12)) .program
     e.chooseRequester = some .compaction ∧ e.compaction.walk = some 0 ∧ (e.entryOf 12).map DirEntry.gen = some 5 ∧
       5 + 1 ≠ foldOf12.gen ∧ foldOf12.words.length ≤ 128 - 2) ∧
    (let s : State := { asking none (some .program) with
       compaction := { Compaction.selecting 1 false 0 0 with action := .seal } }
     s.chooseRequester = some .compaction ∧ s.compaction.run = none ∧ (s.pageSwitch .compaction).isSome = true ∧
       State.pageSwitch { s with array := { s.array with nextSequence := none } } .compaction = none) ∧
    ({ (engineWrites (.copy [7, 8] true) [7, 8] 0 0).compaction with stopping := true } : Compaction).stopping = true ∧
    ((ready.entryOf 37).map DirEntry.body = some .tombstone ∧ (ready.entryOf 37).map DirEntry.loc = some { page := 1, cell := 6 } ∧
      [37, 4].Nodup) ∧
    (let s := engineWrites (.copy [7, 8] true) [7, 8] 0 0
     s.array.inFlight = some { owner := some .compaction, op := .program 0 (2 + 0) 7 } ∧ s.compaction.stopping = false ∧
       s.compaction.run = some { page := 0, first := 2, words := [7, 8], done := 0 }) ∧
    (let s := engineWrites (.copy [7, 8] true) [7, 8] 1 2
     s.compaction.failures = 2 ∧ s.openPage = some 0 ∧ 2 ≤ (s.page 1).live) ∧
    ((engineWrites (.fold (some foldOf12)) [7, 8] 1 0).compaction.action = .fold (some foldOf12) ∧ 2 + 1 = foldOf12.gen) ∧
    (engineWrites .release [7] 0 0).compaction.action = .release :=
  ⟨by decide +kernel, ready_nothingToTake, by decide +kernel⟩

theorem witness_WaitingWalkResumes :
    let s (survey : List SurveyRec) (gen : Nat) : State := { engineAt ready .awaitCommit .program with
      directory := [{ ident := 12, gen, loc := { page := 1, cell := 4 }, stale := 0, body := .tally 100 [] }]
      compaction := { (engineAt ready .awaitCommit .program).compaction with survey } }
    ((s [baseRec 4294967293] 4294967293).compaction.action = .awaitCommit ∧
      (s [baseRec 4294967293] 4294967293).compaction.walk = some 0 ∧
      (s [baseRec 4294967293] 4294967293).compaction.survey[0]? = some (baseRec 4294967293) ∧
      (s [baseRec 4294967293] 4294967293).compaction.victim = some 1 ∧ (baseRec 4294967293).committed = true ∧
      ((s [baseRec 4294967293] 4294967293).entryOf 12).map DirEntry.gen = some 4294967293 ∧
      12 ∉ (s [] 0).compaction.folded ∧ (s [] 0).txn.state ≠ .committing ∧ 4294967293 < 4294967294) ∧
    (({ page := 1, cell := 9 } : Loc) ≠ { page := 1, cell := 4 } ∧ [baseRec 2].length = 0 + 1) ∧
    ((committing writing none).txn.state = .committing ∧ (committing writing none).executor.commit = some writing ∧
      writing.granted = true ∧ ready.compaction.action ≠ .awaitCommit) := by decide +kernel

theorem witness_SupplySupervision :
    let supplied (s : State) (state : SupplyState) (caution recovery above : Bool) : State := { s with supply :=
      { state, cautionRunning := caution, recoveryRunning := recovery, vddAbove := above, vddGood := false, resetNHigh := true } }
    (ready.restarting = none ∧ ready.supply.state = .normal ∧ ready.supply.vddAbove = true ∧ ready.nothingToTake ∧
      ready.executor.commit = none ∧ ready.executor.increment = none ∧ ready.compaction.phase ≠ .select ∧
      ready.supply.cautionRunning = false ∧ ready.supply.recoveryRunning = false) ∧
    (let s := supplied ready .caution true false false
     s.supply.state ≠ .normal ∧ s.supply.vddAbove = false ∧ s.supply.cautionRunning = true ∧ s.store ≠ .mounting) ∧
    (let s := supplied (committing writing none) .caution true false false
     s.executor.commit = some writing ∧ s.txn.state = .committing ∧ writing.markerGranted = false ∧
       s.array.inFlight = none ∧ marking.markerGranted = true ∧ writing.run ≠ none) ∧
    (let s := supplied (committing writing none) .cautionLong false false false
     (s.raise (.supply .cautionLongBegin)).finishes { kind := .commit, tag := 9, payload := [0, 0, 0, 21] }) ∧
    (let s := supplied (incrementExecutes (incrementing true false none)) .cautionLong false false false
     (s.raise (.supply .cautionLongBegin)).finishes { kind := .increment, tag := 9, payload := [0, 12, 0, 5] }) ∧
    (let s : State := { supplied ready .cautionLong true true true with store := .mounting }
     s.store = .mounting ∧ s.supply.recoveryRunning = true ∧ s.supply.state = .cautionLong) ∧
    (supplied ready .caution true true true).supply.recoveryRunning = true ∧
    (let s : State := { supplied (engineIn .select (some .executor)) .cautionLong false true true with
       compaction := Compaction.selecting 2 true 1 5 }
     s.restarting = none ∧ s.supply.recoveryRunning = true ∧ s.store ≠ .mounting ∧
       s.compaction = { Compaction.selecting 2 true 1 5 with action := .none } ∧
       s.array.inFlight.map Flight.owner = some (some .executor)) ∧
    (engineIn .select (some .compaction)).array.inFlight.map Flight.owner = some (some .compaction) :=
  ⟨⟨rfl, rfl, rfl, ready_nothingToTake, rfl, rfl, by decide, rfl, rfl⟩, by decide, by decide, ⟨rfl, rfl, rfl, by decide +kernel, rfl⟩,
    ⟨rfl, rfl, rfl, by decide +kernel, rfl⟩, by decide, by decide, by decide, rfl⟩

theorem witness_RestartCausesAreTaken :
    (let s := committing writing (some { owner := some .executor, op := .program 0 2 7 })
     s.array.inFlight = some { owner := some .executor, op := .program 0 2 7 } ∧ s.array.cells.wf = true) ∧
    (committing writing (some { owner := some .executor, op := .openHeader 0 7 })).array.inFlight
      = some { owner := some .executor, op := .openHeader 0 7 } ∧
    (mountErasing false).array.inFlight = some { owner := some .mount, op := .erase 2 5 } ∧
    (blobRead []).array.inFlight = some { owner := some .executor, op := .read 1 2 1 } ∧ ready.supply.resetNHigh = true ∧
    (let low : State := { ready with supply := { ready.supply with resetNHigh := false } }
     low.supply.resetNHigh = false ∧ low.restarting = none) ∧
    (let low : State := { ready with
       supply := { ready.supply with resetNHigh := false }
       restarting := some { cause := .restartRequest, cold := false, needsResetHigh := false } }
     low.supply.resetNHigh = false ∧ low.restarting = some { cause := .restartRequest, cold := false, needsResetHigh := false }) := by
  decide

theorem witness_ResetNCutsOffTheFrame :
    (ready.restarting = none ∧ ready.supply.resetNHigh = true ∧ noticesWait.restarting = none ∧
      noticesWait.supply.resetNHigh = true ∧ noticesWait.notices.queue ≠ []) ∧
    (let f : Frame := { kind := 0x85, tag := 1, payload := [0x04] }
     let low : State := { ready with
       supply := { ready.supply with resetNHigh := false }, link := { ready.link with transmit := [f], cutOff := true } }
     low.supply.resetNHigh = false ∧ low.link.cutOff = true ∧ low.link.transmit = f :: [] ∧
       (f.kind ≠ 0x85 ∨ f.payload ≠ [0x00])) ∧
    (let low : State := { ready with supply := { ready.supply with resetNHigh := false } }
     low.supply.resetNHigh = false ∧ low.link.cutOff = false) := by decide

theorem witness_RestartProceeds :
    let restarting (cold high good : Bool) (flight : Option Flight) : State := { ready with
      restarting := some { cause := .resetLine, cold, needsResetHigh := true }
      supply := { ready.supply with resetNHigh := high, vddGood := good }
      array := { ready.array with inFlight := flight } }
    (let s := restarting false true false none
     s.restarting = some { cause := .resetLine, cold := false, needsResetHigh := true } ∧ s.array.inFlight = none ∧
       s.supply.resetNHigh = true ∧ s.supply.state = .normal) ∧
    ((restarting true true true none).array.inFlight = none ∧ (restarting true true true none).supply.vddGood = true) ∧
    ((restarting false true false (some { owner := none, op := .erase 2 5 })).array.inFlight ≠ none ∧
      (restarting false false false none).supply.resetNHigh = false ∧
      ¬((true = false ∧ (restarting true true false none).supply.state = .normal) ∨
        (restarting true true false none).supply.vddGood = true)) := by decide

end Sys2Proof.Tests
end

section
/-! The answer to POLL_NOTICE (R166): the request handler settles the request in the event in which its frame completes, and
nothing but its reply, or the handler's wait with it, changes. -/

namespace Sys2Proof.Machine

variable {s : State}

/-! ### A request that the handler answers at once -/

/-- A reply of the handler gives the executor nothing to take: it touches neither the executor, nor the store, nor the
request queue. -/
theorem State.nothingToTake.handlerAnswered (h : s.nothingToTake) (f : Frame) : (s.handlerAnswered f).nothingToTake := by
  unfold State.handlerAnswered
  split <;> exact h

/-- A request whose whole effect is its answer. -/
theorem exec_answered (takes : s.takesNow) (nothing : s.nothingToTake) {kind : RequestKind} {tag : Byte}
    {payload reply : List Byte}
    (answer : s.handle { kind := requestCode kind, tag, payload }
      = s.answer { kind := requestCode kind, tag, payload } reply) :
    exec (commandOf kind tag payload) s
      = .next (s.handlerAnswered { kind := requestCode kind + 0x80, tag, payload := reply }) :=
  exec_handled takes (answer.trans (State.answer_eq _ _)) (nothing.handlerAnswered _)

/-! ### The branches of POLL_NOTICE -/

theorem State.handle_pollNotice (tag : Byte) (payload : List Byte) :
    s.handle { kind := requestCode .pollNotice, tag, payload }
      = s.handlePollNotice { kind := requestCode .pollNotice, tag, payload } := by
  rw [State.handle, requestKindOf_code]

theorem State.handlePollNotice_badArgs {f : Frame} (h : f.payload ≠ []) :
    s.handlePollNotice f = s.answer f (bare .badArgs) := by
  rw [State.handlePollNotice, readEmpty_none h]

theorem State.handlePollNotice_empty {f : Frame} (h : f.payload = []) (noNotice : s.notices.queue = []) :
    s.handlePollNotice f = s.answer f (bare .empty) := by
  rw [State.handlePollNotice, h, readEmpty_nil, noNotice]

/-- What the reply tells of a notice: OK, then its number, kind, lost count and content. -/
def noticeReply (n : Notice) : List Byte :=
  [resultCode .ok] ++ beBytes 1 n.number ++ [noticeCode n.content] ++ beBytes 1 n.lost ++ noticeBytes n.content

theorem State.handlePollNotice_oldest {f : Frame} {n : Notice} {rest : List Notice} (h : f.payload = [])
    (oldest : s.notices.queue = n :: rest) : s.handlePollNotice f = s.answer f (noticeReply n) := by
  rw [State.handlePollNotice, h, readEmpty_nil, oldest, noticeReply]

/-- POLL_NOTICE, once the branch that answers it is known. -/
theorem exec_pollNotice_answered (takes : s.takesNow) (nothing : s.nothingToTake) {tag : Byte} {payload reply : List Byte}
    (answer : s.handlePollNotice { kind := requestCode .pollNotice, tag, payload }
      = s.answer { kind := requestCode .pollNotice, tag, payload } reply) :
    exec (.pollNotice tag payload) s = .next (s.handlerAnswered { kind := 0x84, tag, payload := reply }) :=
  exec_answered takes nothing ((State.handle_pollNotice tag payload).trans answer)

/-- Settles O21: each branch of POLL_NOTICE is one answer, which leaves the executor nothing to take. -/
theorem pollNoticeReportsTheOldest : Obligations.PollNoticeReportsTheOldest := by
  intro tag s takes nothing
  refine ⟨fun noNotice => ?empty, fun n rest oldest => ?oldest, fun payload invalid => ?badArgs⟩
  case empty => exact exec_pollNotice_answered takes nothing (State.handlePollNotice_empty rfl noNotice)
  case oldest => exact exec_pollNotice_answered takes nothing (State.handlePollNotice_oldest rfl oldest)
  case badArgs => exact exec_pollNotice_answered takes nothing (State.handlePollNotice_badArgs invalid)

end Sys2Proof.Machine
end

section
/-! BAD_ARGS for the immediate kinds (R183): the reader of the payload answers none, and with that the request's whole effect
is the handler's answer. -/

namespace Sys2Proof.Machine

variable {s : State}

/-! ### The branch of each immediate kind that answers BAD_ARGS -/

theorem State.handleStatus_badArgs {f : Frame} (h : ¬payloadValid .status f.payload) :
    s.handleStatus f = s.answer f (bare .badArgs) := by
  rw [State.handleStatus, readStatusFlag_none h]

theorem State.handleAbandon_badArgs {f : Frame} (h : ¬payloadValid .abandon f.payload) :
    s.handleAbandon f = s.answer f (bare .badArgs) := by
  rw [State.handleAbandon, readNumber_none h]

theorem State.handleAckNotice_badArgs {f : Frame} (h : ¬payloadValid .ackNotice f.payload) :
    s.handleAckNotice f = s.answer f (bare .badArgs) := by
  rw [State.handleAckNotice, readNoticeNumber_none h]

theorem State.handleRestart_badArgs {f : Frame} (h : ¬payloadValid .restart f.payload) :
    s.handleRestart f = s.answer f (bare .badArgs) := by
  rw [State.handleRestart, readEmpty_none h]

/-! ### The request handler -/

/-- The handler's answer to an immediate request whose payload is outside its length or ranges. -/
theorem State.handle_immediate_badArgs {kind : RequestKind} (tag : Byte) {payload : List Byte}
    (immediate : kind ∈ [.status, .abandon, .ackNotice, .pollNotice, .restart]) (invalid : ¬payloadValid kind payload) :
    s.handle { kind := requestCode kind, tag, payload }
      = s.answer { kind := requestCode kind, tag, payload } (bare .badArgs) := by
  rw [State.handle, requestKindOf_code]
  simp only [List.mem_cons, List.not_mem_nil, or_false] at immediate
  obtain rfl | rfl | rfl | rfl | rfl := immediate
  case inl => exact State.handleStatus_badArgs invalid
  case inr.inl => exact State.handleAbandon_badArgs invalid
  case inr.inr.inl => exact State.handleAckNotice_badArgs invalid
  case inr.inr.inr.inl => exact State.handlePollNotice_badArgs invalid
  case inr.inr.inr.inr => exact State.handleRestart_badArgs invalid

/-- Settles O12: the handler's answer is all that happens, and it leaves the executor nothing to take. -/
theorem immediateBadArguments : Obligations.ImmediateBadArguments := by
  intro kind tag payload s immediate invalid takes nothing
  exact exec_answered takes nothing (State.handle_immediate_badArgs tag immediate invalid)

end Sys2Proof.Machine
end

section
/-! The validity of header cells (R186): a header cell is an entry of one cell as far as its check goes, and its codes stand
above those of the entries. -/

namespace Sys2Proof.Machine

/-! ### The check of a single cell -/

theorem cellByte_cleared {w : CellWord} {k : Nat} (h : k < 14) : cellByte ((w >>> 16) <<< 16) k = cellByte w k := by
  refine BitVec.eq_of_getLsbD_eq fun i hi => ?_
  have position : 16 + (8 * (15 - k) + i - 16) = 8 * (15 - k) + i := by omega
  have aboveCheck : ¬8 * (15 - k) + i < 16 := by omega
  have inCell : 8 * (15 - k) + i < 128 := by omega
  simp [cellByte, position, aboveCheck, inCell]

theorem cellByte_cleared_check {w : CellWord} {k : Nat} (h : 14 ≤ k) : cellByte ((w >>> 16) <<< 16) k = 0 := by
  refine BitVec.eq_of_getLsbD_eq fun i hi => ?_
  have inCheck : 8 * (15 - k) + i < 16 := by omega
  simp [cellByte, inCheck]

/-- The sixteen bytes of a cell whose check field has been cleared. -/
theorem cellBytes_cleared (w : CellWord) :
    cellBytes ((w >>> 16) <<< 16) = (List.range 14).map (cellByte w) ++ [0, 0] := by
  have content : (List.range 14).map (cellByte ((w >>> 16) <<< 16)) = (List.range 14).map (cellByte w) :=
    List.map_congr_left fun _ k => cellByte_cleared (List.mem_range.1 k)
  calc cellBytes ((w >>> 16) <<< 16)
      = (List.range 14).map (cellByte ((w >>> 16) <<< 16))
          ++ [cellByte ((w >>> 16) <<< 16) 14, cellByte ((w >>> 16) <<< 16) 15] := rfl
    _ = (List.range 14).map (cellByte w) ++ [0, 0] := by
        rw [content, cellByte_cleared_check (by decide), cellByte_cleared_check (by decide)]

/-- The check value an entry of one cell calls for is the header cell's. -/
theorem entryCheck_singleton (w : CellWord) : entryCheck [w] = headerCheck w := by
  rw [entryCheck, clearCheck, List.flatMap_singleton, cellBytes_cleared, headerCheck]

theorem checkMatches_singleton {w : CellWord} : checkMatches [w] = true ↔ w.extractLsb' 0 16 = headerCheck w := by
  rw [checkMatches, entryCheck_singleton, beq_iff_eq]

/-! ### The number of a header cell -/

theorem headerValue_eq_some_iff {code : Byte} {w : CellWord} {n : Nat} :
    headerValue code w = some n ↔
      cellByte w 0 = code ∧ w.extractLsb' 0 16 = headerCheck w ∧ n = cellField w 4 4 := by
  rw [headerValue, Option.ite_none_right_eq_some, Bool.and_eq_true, beq_iff_eq, checkMatches_singleton, and_assoc,
    Option.some_inj, eq_comm (b := n)]

theorem headerValue_eq_none {code : Byte} {w : CellWord} (h : cellByte w 0 ≠ code) : headerValue code w = none :=
  if_neg (by simp [h])

/-! ### Cells that start no entry -/

theorem cellField_byte0 (w : CellWord) : cellField w 0 1 = (cellByte w 0).toNat := rfl

/-- The codes of the entries are 1 to 7 (R185). -/
theorem entryFields_eq_none {w : CellWord} (h : cellField w 0 1 = 0 ∨ 7 < cellField w 0 1) (rest : List CellWord) :
    entryFields (w :: rest) = none := by
  unfold entryFields
  simp only [List.headD_cons]
  split
  case h_8 => rfl
  all_goals omega

theorem judgeEntry_eq_none {w : CellWord} (h : cellField w 0 1 = 0 ∨ 7 < cellField w 0 1) (rest : List CellWord) :
    judgeEntry (w :: rest) = none := by
  rw [judgeEntry, entryFields_eq_none h rest]

/-- A cell with a header's code starts no entry. -/
theorem judgeEntry_headerCode {w : CellWord} (h : cellByte w 0 = 0xE1 ∨ cellByte w 0 = 0xE2) (rest : List CellWord) :
    judgeEntry (w :: rest) = none := by
  refine judgeEntry_eq_none (Or.inr ?_) rest
  rw [cellField_byte0]
  obtain code | code := h
  · rw [code]; decide
  · rw [code]; decide

/-! ### The blank cell -/

theorem cellByte_blankCell (k : Nat) : cellByte blankCell k = 0 := by simp [cellByte, blankCell]

theorem cellBytes_blankCell : (List.range 16).map (cellByte blankCell) = List.replicate 16 0 :=
  (List.map_congr_left fun k _ => cellByte_blankCell k).trans List.map_const'

theorem headerCheck_blankCell_ne_zero : headerCheck blankCell ≠ 0 := by decide +kernel

/-- The blank cell is no header of a code other than 0. -/
theorem headerValue_blankCell {code : Byte} (h : code ≠ 0) : headerValue code blankCell = none :=
  headerValue_eq_none (by rw [cellByte_blankCell]; exact h.symm)

theorem judgeEntry_blankCell (rest : List CellWord) : judgeEntry (blankCell :: rest) = none :=
  judgeEntry_eq_none (Or.inl (by rw [cellField_byte0, cellByte_blankCell]; rfl)) rest

/-- Settles O7: both kinds of header by their code and check, the blank cell by its code 0, and the header codes as codes
of no entry. -/
theorem headerCellValidity : Obligations.HeaderCellValidity := by
  refine ⟨fun w n => ?wear, fun w n => ?opened, ?blank, fun w rest code => judgeEntry_headerCode code rest⟩
  case wear => exact headerValue_eq_some_iff
  case opened => exact headerValue_eq_some_iff
  case blank =>
    exact ⟨cellBytes_blankCell, headerCheck_blankCell_ne_zero, headerValue_blankCell (by decide),
      headerValue_blankCell (by decide), judgeEntry_blankCell⟩

end Sys2Proof.Machine
end

section
/-! The step and its invariants: a command answers a next state, which is Steady over the state it starts from unless the
command lands a program or an erase or takes a cold cause; of these only the landing itself is not Steady. -/

namespace Sys2Proof.Machine

/-! ### What each command does to the soundness of the state -/

/-- A fall of RESET_N empties the notices in the event in which the level is recorded. -/
theorem Steady.execResetNFall (s : State) : ∃ t, execResetNFall s = .next t ∧ Steady s t := by
  refine ⟨_, rfl, ?_⟩
  split
  · have emptied : Steady s s.emptyNotices := (Steady.refl s).emptyNotices
    exact (emptied.mute s.emptyNotices_queue s.restarting { s.supply with resetNHigh := false }).setLink id
  · exact Steady.refl s

/-- A rise of RESET_N unmutes nothing that a restart mutes. -/
theorem Steady.execResetNRise (s : State) : ∃ t, execResetNRise s = .next t ∧ Steady s t := by
  refine ⟨_, rfl, ?_⟩
  split
  · exact Steady.refl s
  · have risen : Steady s { s with supply := { s.supply with resetNHigh := true }, link := { s.link with cutOff := false } } := by
      refine ((Steady.refl s).unmute (r := s.restarting) (u := { s.supply with resetNHigh := true }) ?_).setLink id
      intro muted
      simp only [mutedBy, Bool.not_true, Bool.false_or] at muted
      simp [State.muted, mutedBy, muted]
    dsimp only
    split
    · exact risen.headSent
    · exact risen

/-- The commands that land no outcome in the array and cut nothing off. -/
theorem exec_steady (c : Instr) (s : State) (program : ∀ o, c ≠ .programComplete o) (erase : ∀ o, c ≠ .eraseComplete o)
    (brownout : c ≠ .brownout) (powerOn : c ≠ .powerOn) : ∃ t, exec c s = .next t ∧ Steady s t := by
  have refl : Steady s s := Steady.refl s
  cases c
  case programComplete o => exact absurd rfl (program o)
  case eraseComplete o => exact absurd rfl (erase o)
  case brownout => exact absurd rfl brownout
  case powerOn => exact absurd rfl powerOn
  case status | abandon | ackNotice | pollNotice | restart | read | list | wear | getReport | beginTxn | stageWrite
      | stageDelete | stageTally | commit | increment | compact | format =>
    exact ⟨_, rfl, refl.hostSends _ _ _⟩
  case receiveCharacter v stopHigh => exact ⟨_, rfl, refl.character v stopHigh⟩
  case vddAboveRecovery => exact ⟨_, rfl, refl.vddRises⟩
  case vddAtOrBelowRecovery => exact ⟨_, rfl, refl.vddFalls⟩
  case resetNFall => exact Steady.execResetNFall s
  case resetNRise => exact Steady.execResetNRise s
  case byteGapTimerExpiry => exact ⟨_, rfl, by split <;> simp [refl]⟩
  case heldFrameTaken => exact ⟨_, rfl, by split <;> simp [refl]⟩
  case commitWaitEnd => exact ⟨_, rfl, by (repeat' split) <;> simp [refl]⟩
  case incrementWaitEnd => exact ⟨_, rfl, by (repeat' split) <;> simp [refl]⟩
  case frameSent => exact ⟨_, rfl, by split <;> simp [refl]⟩
  case waitingProducerPlaces => exact ⟨_, rfl, by split <;> simp [refl]⟩
  case idleTimerExpiry => exact ⟨_, rfl, by split <;> simp [refl]⟩
  case arbiterGrant => exact ⟨_, rfl, by (repeat' split) <;> simp [refl]⟩
  case readComplete noise =>
    refine ⟨_, rfl, ?_⟩
    split
    · dsimp only
      split
      · exact ((refl.landed.setFree _).readDone _ _).runExecutor
      · exact refl.landed.setFree _
    · exact refl
  case compactionWalkResume => exact ⟨_, rfl, by split <;> simp [refl]⟩
  case supplyCaution =>
    refine ⟨_, rfl, ?_⟩
    dsimp only
    split
    · exact refl.vddFalls.setSupply _ rfl
    · exact refl.vddFalls
  case cautionTimerExpiry =>
    refine ⟨_, rfl, ?_⟩
    split
    · split
      · exact refl.cautionExpires
      · exact refl.setSupply _ rfl
    · exact refl
  case recoveryTimerExpiry =>
    refine ⟨_, rfl, ?_⟩
    split
    · split
      · exact refl.supplyRecovers
      · exact refl.setSupply _ rfl
    · exact refl
  case resetLine =>
    refine ⟨_, rfl, ?_⟩
    split
    · exact refl
    · exact refl.takeCause _ rfl
  case restartProceed rateHigh =>
    refine ⟨_, rfl, ?_⟩
    repeat' split
    · exact refl.proceed _ _
    · exact refl
    · exact refl

/-- What the commands that do change cells give: a next state that keeps the queue of commands and the soundness. -/
structure KeepsSound (s t : State) : Prop where
  pending : t.pending = s.pending
  sound : s.sound → t.sound

theorem Steady.keepsSound {s t : State} (h : Steady s t) : KeepsSound s t := ⟨h.pending, h.sound⟩

theorem KeepsSound.steady {s t u : State} (h : KeepsSound s t) (k : Steady t u) : KeepsSound s u :=
  ⟨k.pending.trans h.pending, fun sound => k.sound (h.sound sound)⟩

theorem State.takeCause_pending (s : State) (c : Cause) : (s.takeCause c).pending = s.pending := by
  have cut : s.cutOff.pending = s.pending := by unfold State.cutOff; split <;> rfl
  unfold State.takeCause
  cases isCold c
  · cases decide (c = .resetLine) <;> rfl
  · exact cut

theorem State.landHeader_pending (s : State) (p : PageIx) (w : CellWord) (o : ArrayOutcome) :
    (s.landHeader p w o).pending = s.pending := by
  cases o <;> simp [State.landHeader]

theorem execProgramComplete_keepsSound (o : ArrayOutcome) (s : State) :
    ∃ t, execProgramComplete o s = .next t ∧ KeepsSound s t := by
  refine ⟨_, rfl, ?_⟩
  have landed : Steady s s.landed := (Steady.refl s).landed
  split
  · rename_i owner page cell word _
    have cellLanded : KeepsSound s ((s.landed.landCell page cell word o).raiseUsed page (cell + 1)) :=
      KeepsSound.steady (t := s.landed.landCell page cell word o) ⟨by simp, fun h => State.landCell_sound (landed.sound h) ..⟩
        ((Steady.refl _).raiseUsed _ _)
    dsimp only
    split
    · exact cellLanded.steady (((Steady.refl _).cellDone _ _).runExecutor)
    · exact cellLanded
  · rename_i owner page word _
    have headerLanded : KeepsSound s (s.landed.landHeader page word o) :=
      ⟨by simp [State.landHeader_pending], fun h => State.landHeader_sound (landed.sound h) ..⟩
    dsimp only
    split
    · exact headerLanded.steady (((Steady.refl _).headerDone _).runExecutor)
    · exact headerLanded
  · exact (Steady.refl s).keepsSound

theorem execEraseComplete_keepsSound (o : ArrayOutcome) (s : State) :
    ∃ t, execEraseComplete o s = .next t ∧ KeepsSound s t := by
  refine ⟨_, rfl, ?_⟩
  split
  · rename_i owner page count _
    have eraseLanded : KeepsSound s (s.landed.landErase page count o) :=
      ⟨by simp, fun h => State.landErase_sound ((Steady.refl s).landed.sound h) ..⟩
    dsimp only
    split
    · exact eraseLanded.steady (((Steady.refl _).eraseDone _ _ _ _).runExecutor)
    · exact eraseLanded
  · exact (Steady.refl s).keepsSound

theorem vddFalls_takeCause_keepsSound (s : State) (c : Cause) : KeepsSound s (s.vddFalls.takeCause c) :=
  ⟨by rw [State.takeCause_pending]; simp, fun h => State.takeCause_sound ((Steady.refl s).vddFalls.sound h) c⟩

theorem execPowerOn_keepsSound (s : State) : ∃ t, execPowerOn s = .next t ∧ KeepsSound s t := by
  refine ⟨_, rfl, (vddFalls_takeCause_keepsSound s .powerOn).steady (Steady.vddRises ?_)⟩
  refine (Steady.refl _).setNotices fun kept => ⟨⟨?_, ?_, ?_, ?_, Nat.zero_le _⟩, kept.2⟩
  · exact kept.1.1
  · exact kept.1.2.1
  · exact kept.1.2.2.1
  · exact kept.1.2.2.2.1

/-- Every command has a next state, with the queue of commands and the soundness kept. -/
theorem exec_keepsSound (c : Instr) (s : State) : ∃ t, exec c s = .next t ∧ KeepsSound s t := by
  by_cases changes : (∃ o, c = .programComplete o) ∨ (∃ o, c = .eraseComplete o) ∨ c = .brownout ∨ c = .powerOn
  · obtain ⟨o, rfl⟩ | ⟨o, rfl⟩ | rfl | rfl := changes
    · exact execProgramComplete_keepsSound o s
    · exact execEraseComplete_keepsSound o s
    · exact ⟨_, rfl, vddFalls_takeCause_keepsSound s .brownout⟩
    · exact execPowerOn_keepsSound s
  · simp only [not_or, not_exists] at changes
    obtain ⟨program, erase, brownout, powerOn⟩ := changes
    obtain ⟨t, next, steady⟩ := exec_steady c s program erase brownout powerOn
    exact ⟨t, next, steady.keepsSound⟩

/-! ### The statements -/

/-- Settles O4: the step is the front command's, which keeps the soundness; the idle step changes nothing. -/
theorem stepKeepsSoundness : Obligations.StepKeepsSoundness := by
  intro s t sound next
  unfold step at next
  split at next
  · cases next
    exact sound
  · rename_i c rest _
    obtain ⟨u, same, kept⟩ := exec_keepsSound c { s with pending := rest }
    rw [same] at next
    cases next
    exact kept.sound sound

/-- Settles O2. -/
theorem everyCommandGivesANextState : Obligations.EveryCommandGivesANextState := by
  intro c s
  obtain ⟨t, next, kept⟩ := exec_keepsSound c s
  exact ⟨t, next, kept.pending⟩

/-- Settles O5: the commands it names are Steady, and Steady keeps the cells. -/
theorem onlyCompletionsAndColdCausesChangeCells : Obligations.OnlyCompletionsAndColdCausesChangeCells := by
  intro c s t next program erase brownout powerOn
  obtain ⟨u, same, steady⟩ := exec_steady c s program erase brownout powerOn
  rw [same] at next
  cases next
  exact steady.cells

/-- Settles O1. -/
theorem stepRunsTheFrontCommand : Obligations.StepRunsTheFrontCommand := by
  refine ⟨fun c rest s => rfl, fun s idle => ?_⟩
  rw [step, idle]

/-- Settles O6: State.reset is written out block by block. -/
theorem resetHoldsTheRestartValues : Obligations.ResetHoldsTheRestartValues := by
  unfold Obligations.ResetHoldsTheRestartValues
  simp [State.reset, Link.restarted, Executor.free, Txn.restarted, ArrayState.restarted, Compaction.idle, MountRecord.start,
    NoticeUnit.restarted, Supply.restarted]

/-- Settles O3: a restart leaves every block within its bounds, and State.reset is such a state over a blank array. -/
theorem resetIsSound : Obligations.ResetIsSound := by
  refine ⟨rfl, directorySorted_nil, Link.bounded_restarted false, ⟨?_, fun _ => rfl⟩, Txn.tidy_ended, mountSorted_start none⟩
  refine ⟨Nat.zero_le _, Nat.le_refl _, by decide, ?_, Nat.zero_le _⟩
  exact fun n queued => nomatch (show n ∈ ([] : List Notice) from queued)

end Sys2Proof.Machine
end

section
/-! Entries and headers as the device composes them (R185 to R188): the header cell's fields read back, the composed words
carry a matching check, and the cells after a BLOB's first are its data. -/

namespace Sys2Proof.Machine

/-! ### Header cells -/

/-- A header cell of a page with its check set holds the number it was composed with. -/
theorem headerValue_composed (code : Byte) {n : Nat} (h : n < 2 ^ 32) :
    headerValue code ((setCheck [headerCell code 0 0 (BitVec.ofNat 32 n) 0 0 0]).headD blankCell) = some n := by
  have unchecked := headerCell_unchecked code 0 0 (BitVec.ofNat 32 n) 0 0 0
  have matching := checkMatches_set unchecked []
  rw [setCheck_cons unchecked, List.headD_cons, headerValue, headerCell_byte0, matching, headerCell_field4]
  simpa using h

/-! ### The fields of an entry's first cell -/

/-- The fields of an entry fit the widths that R185 gives them. -/
def Entry.fits : Entry → Prop
  | .blob _ ident txn gen length => ident < 2 ^ 16 ∧ txn < 2 ^ 32 ∧ gen < 2 ^ 32 ∧ length ≤ 240
  | .tallyBase _ ident txn gen value => ident < 2 ^ 16 ∧ txn < 2 ^ 32 ∧ gen < 2 ^ 32 ∧ value < 2 ^ 32
  | .tombstone _ ident txn gen => ident < 2 ^ 16 ∧ txn < 2 ^ 32 ∧ gen < 2 ^ 32
  | .bump ordinal ident delta gen => ordinal < 2 ^ 8 ∧ ident < 2 ^ 16 ∧ delta < 2 ^ 16 ∧ gen < 2 ^ 32
  | .marker txn count => txn < 2 ^ 32 ∧ count < 2 ^ 8
  | .release victim sequence => victim < 2 ^ 8 ∧ sequence < 2 ^ 32
  | .formatMark => True

/-- The cells after an entry's first one. -/
def laterCells : Entry → List Byte → List CellWord
  | .blob .., data => dataCells data
  | .tallyBase _ _ _ _ value, _ => [(BitVec.ofNat 32 value ++ (0 : BitVec 96) : CellWord)]
  | .tombstone .., _ => []
  | .bump .., _ => []
  | .marker .., _ => []
  | .release .., _ => []
  | .formatMark, _ => []

theorem entryWords_eq (e : Entry) (data : List Byte) : entryWords e data = setCheck (entryHeader e :: laterCells e data) := by
  cases e <;> rfl

theorem cellField_value {n : Nat} (h : n < 2 ^ 32) :
    cellField (BitVec.ofNat 32 n ++ (0 : BitVec 96) : CellWord) 0 4 = n := by
  have high : (BitVec.ofNat 32 n ++ (0 : BitVec 96) : CellWord).extractLsb' 96 32 = BitVec.ofNat 32 n := by
    refine BitVec.eq_of_getLsbD_eq fun i hi => ?_
    have above : ¬96 + i < 96 := by omega
    rw [BitVec.getLsbD_extractLsb', decide_eq_true hi, Bool.true_and, BitVec.getLsbD_append, if_neg above,
      Nat.add_sub_cancel_left]
  change ((BitVec.ofNat 32 n ++ (0 : BitVec 96) : CellWord).extractLsb' 96 32).toNat = n
  rw [high, BitVec.toNat_ofNat, Nat.mod_eq_of_lt h]

theorem blobCells_lt {n : Nat} (h : n ≤ 240) : blobCells n < 256 := by
  unfold blobCells
  omega

/-- Whatever check its header cell carries, a composed entry's fields read back as written. -/
theorem entryFields_composed {e : Entry} (fits : e.fits) (data : List Byte) (c : Check) (rest : List CellWord) :
    entryFields ((entryHeader e ||| c.setWidth 128) :: laterCells e data ++ rest) = some e := by
  cases e with
  | blob flags ident txn gen length =>
    obtain ⟨i, t, g, l⟩ := fits
    have byte : length % 256 = length := by omega
    have count : blobCells length % 256 = blobCells length := Nat.mod_eq_of_lt (blobCells_lt l)
    simp [entryFields, entryHeader, headerCell_byte1, headerCell_field0, headerCell_field2, headerCell_field4,
      headerCell_field8, headerCell_field12, headerCell_field13, byte, count]
    omega
  | tallyBase flags ident txn gen value =>
    obtain ⟨i, t, g, v⟩ := fits
    simp only [entryFields, entryHeader, laterCells, List.cons_append, List.headD_cons, List.getD_cons_succ,
      List.getD_cons_zero, cellField_value v, headerCell_byte1, headerCell_field0, headerCell_field2, headerCell_field4,
      headerCell_field8, headerCell_field13, BitVec.toNat_ofNat, Nat.mod_eq_of_lt i, Nat.mod_eq_of_lt t, Nat.mod_eq_of_lt g]
    rfl
  | tombstone flags ident txn gen =>
    obtain ⟨i, t, g⟩ := fits
    simp [entryFields, entryHeader, headerCell_byte1, headerCell_field0, headerCell_field2, headerCell_field4,
      headerCell_field8, headerCell_field13]
    omega
  | bump ordinal ident delta gen =>
    obtain ⟨o, i, d, g⟩ := fits
    simp [entryFields, entryHeader, headerCell_byte1, headerCell_field0, headerCell_field2, headerCell_field4high,
      headerCell_field8, headerCell_field13]
    omega
  | marker txn count =>
    obtain ⟨t, k⟩ := fits
    simp [entryFields, entryHeader, headerCell_field0, headerCell_field4, headerCell_field12, headerCell_field13]
    omega
  | release victim sequence =>
    obtain ⟨v, q⟩ := fits
    simp [entryFields, entryHeader, headerCell_byte1, headerCell_field0, headerCell_field4, headerCell_field13]
    omega
  | formatMark => simp [entryFields, entryHeader, headerCell_field0, headerCell_field13]

/-! ### A composed entry is judged valid -/

theorem dataCells_length (data : List Byte) : (dataCells data).length = (data.length + 15) / 16 := by
  simp [dataCells]

/-- The data of a BLOB has the length its entry states. -/
def Entry.carries : Entry → List Byte → Prop
  | .blob _ _ _ _ length, data => data.length = length
  | _, _ => True

theorem laterCells_length {e : Entry} {data : List Byte} (h : e.carries data) :
    (laterCells e data).length + 1 = entryCells e := by
  cases e
  case blob flags ident txn gen length =>
    have whole : data.length = length := h
    rw [laterCells, dataCells_length, entryCells, blobCells, whole, Nat.add_comm]
  all_goals rfl

/-- An entry in range whose words stand whole, whatever cells follow, is judged valid with the fields it was composed with. -/
theorem judgeEntry_composed {e : Entry} {data : List Byte} (fits : e.fits) (carries : e.carries data)
    (inRange : entryInRange e = true) (rest : List CellWord) : judgeEntry (entryWords e data ++ rest) = some e := by
  have matching := checkMatches_set (entryHeader_unchecked e) (laterCells e data)
  have cells : entryCells e
      = ((entryHeader e ||| (entryCheck (entryHeader e :: laterCells e data)).setWidth 128) :: laterCells e data).length := by
    rw [List.length_cons, laterCells_length carries]
  rw [entryWords_eq, setCheck_cons (entryHeader_unchecked e), judgeEntry, entryFields_composed fits]
  dsimp only
  rw [inRange, cells, List.take_left', matching, if_pos]
  · rw [List.length_append, decide_eq_true (Nat.le_add_right _ _)]
    rfl
  · rfl

theorem identInRange_of {ident : Nat} (low : 1 ≤ ident) (high : ident ≤ 4094) : identInRange ident = true :=
  identInRange_iff.2 ⟨low, high⟩

/-- Settles O8: the header cells read back their number; each kind of entry fits its fields and is in range, so it is judged
as composed; and the cells after a BLOB's first are its data cells. -/
theorem whatIsWrittenIsJudgedValid : Obligations.WhatIsWrittenIsJudgedValid := by
  refine ⟨fun n h => ⟨headerValue_composed 0xE1 h, headerValue_composed 0xE2 h⟩, ?blob, ?tally, ?tombstone, ?bump, ?marker,
    ?release, fun rest => judgeEntry_composed (e := .formatMark) trivial trivial rfl rest, ?data⟩
  case blob =>
    intro flags ident txn gen data rest low high t g g' l
    refine judgeEntry_composed (e := .blob flags ident txn gen data.length) ⟨by omega, t, g', l⟩ rfl ?_ rest
    simp [entryInRange, identInRange_of low high, g, l]
  case tally =>
    intro flags ident txn gen value rest low high t g g' v
    refine judgeEntry_composed (e := .tallyBase flags ident txn gen value) ⟨by omega, t, g', v⟩ trivial ?_ rest
    simp [entryInRange, identInRange_of low high, g]
  case tombstone =>
    intro flags ident txn gen rest low high t g g'
    refine judgeEntry_composed (e := .tombstone flags ident txn gen) ⟨by omega, t, g'⟩ trivial ?_ rest
    simp [entryInRange, identInRange_of low high, g]
  case bump =>
    intro ordinal ident delta gen rest o o' low high d d' g g'
    refine judgeEntry_composed (e := .bump ordinal ident delta gen) ⟨by omega, by omega, d', g'⟩ trivial ?_ rest
    simp [entryInRange, identInRange_of low high, g, o, o', d]
  case marker =>
    intro txn count rest t k
    exact judgeEntry_composed (e := .marker txn count) ⟨t, k⟩ trivial rfl rest
  case release =>
    intro victim sequence rest v q
    refine judgeEntry_composed (e := .release victim sequence) ⟨by omega, q⟩ trivial ?_ rest
    simp [entryInRange, v]
  case data =>
    intro flags ident txn gen data l
    rw [entryWords_eq, setCheck_cons (entryHeader_unchecked _), List.length_cons, List.drop_one, List.tail_cons]
    change (dataCells data).length + 1 = _ ∧ ((dataCells data).flatMap cellBytes).take data.length = data
    rw [dataCells_length]
    exact ⟨Nat.add_comm _ _, dataCells_take data⟩

end Sys2Proof.Machine
end

section
/-! The receiver and the held frame (R145 to R148): what a character does in each state of the receiver, and that the
characters of a good frame do what its request does. -/

namespace Sys2Proof.Machine

variable {s : State}

/-! ### A good frame by the state of the handler -/

theorem State.takesNow.listening (h : s.takesNow) : s.listening = true := by
  obtain ⟨running, high, _, _⟩ := h
  simp [State.listening, running, high]

theorem State.listening_of (running : s.restarting = none) (high : s.supply.resetNHigh = true) : s.listening = true := by
  simp [State.listening, running, high]

theorem State.takeHeld_busy (busy : s.link.handlerReply ≠ none) : s.takeHeld = s := by
  rw [State.takeHeld, State.handlerFree, if_neg (by simpa using busy)]

theorem State.takeHeld_free {f : Frame} (free : s.link.handlerReply = none) (held : s.link.held = some f) :
    s.takeHeld = (State.handle { s with link := { s.link with held := none } } f).runExecutor := by
  rw [State.takeHeld, State.handlerFree, if_pos (by simp [free]), held]

theorem State.deliver_taken (h : s.takesNow) (f : Frame) : s.deliver f = (s.handle f).runExecutor := by
  obtain ⟨_, _, free, noneHeld⟩ := h
  rw [State.deliver, State.takeHeld_none noneHeld]
  exact if_pos (by simp [State.handlerFree, free])

/-- While the handler waits with its reply a good frame is held, where none is held yet. -/
theorem State.deliver_held (busy : s.link.handlerReply ≠ none) (noneHeld : s.link.held = none) (f : Frame) :
    s.deliver f = { s with link := { s.link with held := some f } } := by
  have notFree : s.handlerFree = false := by simpa [State.handlerFree] using Option.isSome_iff_ne_none.2 busy
  simp [State.deliver, State.takeHeld_busy busy, notFree, noneHeld]

/-- A further frame is an overrun. -/
theorem State.deliver_overrun (busy : s.link.handlerReply ≠ none) (held : s.link.held ≠ none) (f : Frame) :
    s.deliver f = s.countDiscard := by
  have notFree : s.handlerFree = false := by simpa [State.handlerFree] using Option.isSome_iff_ne_none.2 busy
  simp [State.deliver, State.takeHeld_busy busy, notFree, held]

/-- A request row stands for the delivery of its frame to a receiver that listens. -/
theorem exec_commandOf_listening (listening : s.listening = true) (kind : RequestKind) (tag : Byte) (payload : List Byte) :
    exec (commandOf kind tag payload) s = .next (s.deliver { kind := requestCode kind, tag, payload }) := by
  rw [exec_commandOf, State.hostSends, if_pos listening]

/-! ### A frame of no known kind -/

theorem requestKindOf_unknown {code : Byte} (unknown : ∀ k, requestCode k ≠ code) : requestKindOf code = none :=
  List.find?_eq_none.2 fun k _ => by simpa using unknown k

theorem State.handle_unknown {code : Byte} (unknown : ∀ k, requestCode k ≠ code) (tag : Byte) (payload : List Byte) :
    s.handle { kind := code, tag, payload } = s.handlerAnswered { kind := code + 0x80, tag, payload := [0x03] } := by
  rw [State.handle, requestKindOf_unknown unknown]
  exact State.answer_eq _ _

/-- Settles O9: the receiver delivers the frame of the characters, which is what the request's row does; in a receiver that
ignores RXD neither does anything. -/
theorem frameCharactersActAsTheRequest : Obligations.FrameCharactersActAsTheRequest := by
  refine ⟨⟨rfl, rfl, rfl⟩, fun tag payload s short hunting nothingReceived stopped => ⟨fun kind => ?known,
    fun kind unknown takes nothing => ?unknown⟩⟩
  case known =>
    cases listening : s.listening with
    | true =>
      exact (execAll_frame listening hunting nothingReceived stopped (requestCode kind) tag payload short).trans
        (exec_commandOf_listening listening kind tag payload).symm
    | false =>
      have deaf : exec (commandOf kind tag payload) s = .next s := by
        rw [exec_commandOf, State.hostSends, listening]
        rfl
      exact (execAll_deaf listening (frameBytes { kind := requestCode kind, tag, payload })).trans deaf.symm
  case unknown =>
    refine (execAll_frame takes.listening hunting nothingReceived stopped kind tag payload short).trans ?_
    rw [State.deliver_taken takes, State.handle_unknown unknown, State.runExecutor_nothing (nothing.handlerAnswered _)]

/-! ### One character -/

theorem exec_character (listening : s.listening = true) (v : Byte) :
    exec (.receiveCharacter v true) s = .next (s.goodCharacter v) := by
  change Host.Outcome.next (s.character v true) = _
  rw [State.character, if_pos listening]
  rfl

/-- A bad stop bit discards a frame in progress. -/
theorem exec_badStop (listening : s.listening = true) (v : Byte) :
    exec (.receiveCharacter v false) s = .next (if s.link.rx = .hunt then s else s.discardFrame) := by
  change Host.Outcome.next (s.character v false) = _
  rw [State.character, if_pos listening]
  cases rx : s.link.rx <;> simp

theorem State.goodCharacter_hunt (rx : s.link.rx = .hunt) (v : Byte) : s.goodCharacter v
    = if v = 0xB7 then { s with link := { s.link with rx := .length, received := [], byteGapRunning := true } } else s := by
  rw [State.goodCharacter, rx]

theorem State.goodCharacter_length (rx : s.link.rx = .length) (v : Byte) :
    s.goodCharacter v = if v.toNat < 2 then s.discardFrame else s.keep .body v := by
  rw [State.goodCharacter, rx]

theorem State.goodCharacter_body (rx : s.link.rx = .body) {len : Byte} {body : List Byte}
    (received : s.link.received = len :: body) (v : Byte) :
    s.goodCharacter v = s.keep (if len.toNat ≤ body.length + 1 then .check else .body) v := by
  rw [State.goodCharacter, rx, received]
  rfl

/-- The first check byte is kept, LEN bytes standing after LEN itself. -/
theorem State.goodCharacter_check1 (rx : s.link.rx = .check) {len : Byte} {body : List Byte}
    (received : s.link.received = len :: body) (whole : body.length = len.toNat) (v : Byte) :
    s.goodCharacter v = s.keep .check v := by
  rw [State.goodCharacter, rx, received]
  exact if_neg (by simp [whole])

/-- The second check byte completes the frame. -/
theorem State.goodCharacter_check2 (rx : s.link.rx = .check) {len c : Byte} {body : List Byte}
    (received : s.link.received = len :: body ++ [c]) (whole : body.length = len.toNat) (v : Byte) :
    s.goodCharacter v = s.frameComplete (len :: body ++ [c] ++ [v]) := by
  rw [State.goodCharacter, rx, received]
  exact if_pos (by simp [whole])

/-- Settles O10: each clause is the receiver's branch for its state. -/
theorem characterByReceiverState : Obligations.CharacterByReceiverState := by
  intro v len body s running high
  have listening : s.listening = true := State.listening_of running high
  have character := exec_character listening v
  refine ⟨fun rx => ?badStop, fun rx => ?badStopHunt, fun on => ?expiry, fun off => ?stopped, fun rx start => ?start,
    fun rx other => ?noise, fun rx long => ?length, fun rx short => ?tooShort, fun rx received room => ?body,
    fun rx received whole => ?check1, fun c rx received whole => ⟨fun bad => ?bad, fun kind tag payload good request => ?good⟩⟩
  case badStop => rw [exec_badStop listening v, if_neg rx]; rfl
  case badStopHunt => rw [exec_badStop listening v, if_pos rx]
  case expiry => exact congrArg Host.Outcome.next (if_pos on)
  case stopped => exact congrArg Host.Outcome.next (if_neg (by simp [off]))
  case start => rw [character, State.goodCharacter_hunt rx, if_pos start]
  case noise => rw [character, State.goodCharacter_hunt rx, if_neg other]
  case length => rw [character, State.goodCharacter_length rx, if_neg (Nat.not_lt.2 long)]; rfl
  case tooShort => rw [character, State.goodCharacter_length rx, if_pos short]; rfl
  case body =>
    have last : (len.toNat ≤ body.length + 1) ↔ (body.length + 1 = len.toNat) := by omega
    rw [character, State.goodCharacter_body rx received, if_congr last rfl rfl]
    rfl
  case check1 => rw [character, State.goodCharacter_check1 rx received whole]; rfl
  case bad => rw [character, State.goodCharacter_check2 rx received whole, State.frameComplete_bad _ _ _ _ bad]; rfl
  case good =>
    subst request
    rw [character, State.goodCharacter_check2 rx received whole]
    refine (congrArg Host.Outcome.next (State.frameComplete_good s len _ tag c v payload good)).trans ?_
    exact (exec_commandOf_listening (s := s.hunt) listening kind tag payload).symm

/-! ### The held frame -/

theorem exec_heldFrameTaken (running : s.restarting = none) : exec .heldFrameTaken s = .next s.takeHeld :=
  congrArg Host.Outcome.next (if_pos (by simp [running]))

/-- RESTART is answered OK by the handler. -/
theorem exec_restart_answered (takes : s.takesNow) (nothing : s.nothingToTake) (tag : Byte) :
    exec (.restart tag []) s = .next (s.handlerAnswered { kind := 0x85, tag, payload := [0x00] }) := by
  refine exec_answered takes nothing (kind := .restart) (payload := []) ?_
  rw [State.handle, requestKindOf_code]
  rfl

theorem State.handlerAnswered_room (h : s.answersNow) (f : Frame) : s.handlerAnswered f = s.withFrame f := by
  obtain ⟨_, _, _, _, places, noWaiter⟩ := h
  exact if_pos ⟨places, noWaiter⟩

/-- Settles O11: a busy handler leaves the frame to be held or to overrun, and a free one takes what is held as it would the
request on the state without it. -/
theorem oneFrameIsHeld : Obligations.OneFrameIsHeld := by
  intro kind tag payload s running
  refine ⟨fun high busy noneHeld => ?held, fun high busy held => ?overrun, fun high free held => ?taken,
    fun answers nothing held => ?restart, fun idle => ?idle⟩
  case held => rw [exec_commandOf_listening (State.listening_of running high), State.deliver_held busy noneHeld]
  case overrun =>
    rw [exec_commandOf_listening (State.listening_of running high), State.deliver_overrun busy held]
    rfl
  case taken =>
    have takes : State.takesNow { s with link := { s.link with held := none } } := ⟨running, high, free, rfl⟩
    rw [exec_heldFrameTaken running, State.takeHeld_free free held, exec_commandOf_listening takes.listening,
      State.deliver_taken takes]
  case restart =>
    have free : s.link.handlerReply = none := answers.takesNow.2.2.1
    have same : exec .heldFrameTaken s = exec (.restart tag []) { s with link := { s.link with held := none } } := by
      rw [exec_heldFrameTaken running, State.takeHeld_free free held]
      exact ((exec_commandOf_listening answers.listening .restart tag []).trans
        (congrArg Host.Outcome.next (State.deliver_taken answers.takesNow _))).symm
    rw [same, exec_restart_answered answers.takesNow nothing, State.handlerAnswered_room answers]
  case idle =>
    rw [exec_heldFrameTaken running]
    obtain noneHeld | busy := idle
    · rw [State.takeHeld_none noneHeld]
    · rw [State.takeHeld_busy busy]

end Sys2Proof.Machine
end

section
/-! The request handler, the replay table and the transmit queue (R150 to R160, R166, R167, R39, R58). -/

namespace Sys2Proof.Machine

variable {s : State}

/-! ### A queued kind meets its checks (R150) -/

/-- A request whose whole effect is an answer that finds a place. -/
theorem exec_answeredNow (h : s.answersNow) (nothing : s.nothingToTake) {kind : RequestKind} {tag : Byte}
    {payload reply : List Byte}
    (answer : s.handle { kind := requestCode kind, tag, payload }
      = s.answer { kind := requestCode kind, tag, payload } reply) :
    exec (commandOf kind tag payload) s = .next (s.withFrame { kind := requestCode kind + 0x80, tag, payload := reply }) := by
  rw [exec_answered h.takesNow nothing answer, State.handlerAnswered_room h]

theorem isImmediate_eq_false {kind : RequestKind} (h : kind ∉ [.status, .abandon, .ackNotice, .pollNotice, .restart]) :
    isImmediate kind = false := by
  cases kind <;> revert h <;> decide

theorem isMutating_iff {kind : RequestKind} (h : isImmediate kind = false) :
    isMutating kind = true ↔ kind ∉ [.read, .list, .wear, .getReport] := by
  cases kind <;> revert h <;> decide

theorem State.tagInUse_iff (tag : Byte) : s.tagInUse tag = true ↔
    (∃ r ∈ s.link.queue, r.tag = tag) ∨ ∃ r, s.executor.executing = some r ∧ r.tag = tag := by
  cases executing : s.executor.executing <;> simp [State.tagInUse, executing]

section
variable {kind : RequestKind} {tag : Byte} {payload : List Byte}

theorem State.handleQueued_notMounted (h : s.mounted = false) (f : Frame) :
    s.handleQueued kind f = s.answer f (bare .notReady) := if_pos h

theorem State.handleQueued_tagInUse (h : s.mounted = true) {f : Frame} (used : s.tagInUse f.tag = true) :
    s.handleQueued kind f = s.answer f (bare .dupTag) := by
  rw [State.handleQueued, if_neg (by simp [h]), if_pos used]

theorem State.handleQueued_replay (h : s.mounted = true) {f : Frame} (fresh : s.tagInUse f.tag = false) {e : ReplayEntry}
    (repeated : s.replayOf kind f = some e) : s.handleQueued kind f = s.answer f e.reply := by
  rw [State.handleQueued, if_neg (by simp [h]), if_neg (by simp [fresh]), repeated]

theorem State.handleQueued_new (h : s.mounted = true) {f : Frame} (fresh : s.tagInUse f.tag = false)
    (new : s.replayOf kind f = none) : s.handleQueued kind f = if 4 ≤ s.link.queue.length then s.answer f (bare .busy)
      else { s with link := { s.link with queue := s.link.queue ++ [{ kind, tag := f.tag, payload := f.payload }] } } := by
  rw [State.handleQueued, if_neg (by simp [h]), if_neg (by simp [fresh]), new]

/-- The first entry that a frame repeats answers it. -/
theorem State.replayOf_some {older newer : List ReplayEntry} {e : ReplayEntry} {f : Frame} (mutating : isMutating kind = true)
    (table : s.link.replay = older ++ e :: newer)
    (before : ∀ x ∈ older, ¬(x.tag = f.tag ∧ x.kind = kind ∧ x.check = frameCheck f.kind f.tag f.payload))
    (repeated : e.tag = f.tag ∧ e.kind = kind ∧ e.check = frameCheck f.kind f.tag f.payload) :
    s.replayOf kind f = some e := by
  rw [State.replayOf, if_pos mutating, table, List.find?_append, List.find?_eq_none.2 fun x m => by simpa using before x m,
    List.find?_cons_of_pos (by simpa using repeated)]
  rfl

theorem State.replayOf_none {f : Frame}
    (h : ∀ e ∈ s.link.replay, ¬(isMutating kind = true ∧ e.tag = f.tag ∧ e.kind = kind ∧
      e.check = frameCheck f.kind f.tag f.payload)) : s.replayOf kind f = none := by
  unfold State.replayOf
  split
  · rename_i mutating
    exact List.find?_eq_none.2 fun e m => by simpa [mutating] using h e m
  · rfl

end

/-- Settles O13: each clause is a branch of the checks, taken by a handler whose answer finds a place. -/
theorem queuedRequestChecks : Obligations.QueuedRequestChecks := by
  intro kind tag payload s queued answers nothing
  have class' : isImmediate kind = false := isImmediate_eq_false queued
  have answered {reply : List Byte} (checks : s.handleQueued kind { kind := requestCode kind, tag, payload }
      = s.answer { kind := requestCode kind, tag, payload } reply) :
      exec (commandOf kind tag payload) s
        = .next (s.withFrame { kind := requestCode kind + 0x80, tag, payload := reply }) :=
    exec_answeredNow answers nothing ((State.handle_queued class' tag payload).trans checks)
  refine ⟨fun store => ?notReady, fun store => ?mounted⟩
  case notReady => exact answered (State.handleQueued_notMounted (by obtain h | h := store <;> simp [State.mounted, h]) _)
  case mounted =>
    have mounted : s.mounted = true := by simpa [State.mounted] using store
    have unused_of (fresh : ¬((∃ r ∈ s.link.queue, r.tag = tag) ∨ ∃ r, s.executor.executing = some r ∧ r.tag = tag)) :
        s.tagInUse tag = false := by
      rw [← Bool.not_eq_true]
      exact fun used => fresh ((State.tagInUse_iff tag).1 used)
    refine ⟨fun held => ?dupTag, fun fresh older newer e table before repeated => ?replay, fun fresh new => ?unanswered⟩
    case dupTag => exact answered (State.handleQueued_tagInUse mounted ((State.tagInUse_iff tag).2 held))
    case replay =>
      have unused := unused_of fresh
      have mutating : isMutating kind = true := (isMutating_iff class').2 repeated.1
      exact answered (State.handleQueued_replay mounted unused (State.replayOf_some mutating table
        (fun x m same => before x m ⟨repeated.1, same⟩) repeated.2))
    case unanswered =>
      have noReplay : s.replayOf kind { kind := requestCode kind, tag, payload } = none :=
        State.replayOf_none fun e m same => new e m ⟨(isMutating_iff class').1 same.1, same.2⟩
      have checked := State.handleQueued_new mounted (f := { kind := requestCode kind, tag, payload }) (unused_of fresh) noReplay
      refine ⟨fun full => answered (checked.trans (if_pos full)), fun room busy => ?_⟩
      exact exec_handled answers.takesNow ((State.handle_queued class' tag payload).trans
        (checked.trans (if_neg (Nat.not_le.2 room)))) (Or.inl busy)

/-! ### BAD_ARGS of the queued kinds (R184) -/

/-- A queued request whose payload its reader refuses is answered BAD_ARGS. -/
theorem State.execute_badArgs {kind : RequestKind} (tag : Byte) {payload : List Byte} (queued : isImmediate kind = false)
    (invalid : ¬payloadValid kind payload) (t : State) : t.execute { kind, tag, payload } = t.reply (bare .badArgs) := by
  cases kind
  case status | abandon | ackNotice | pollNotice | restart => cases queued
  case read => simp [State.execute, State.takeRead, readIdent_none invalid]
  case list => simp [State.execute, State.takeList, readListArgs_none invalid]
  case wear => simp [State.execute, State.takeWear, readWearArgs_none invalid]
  case getReport => simp [State.execute, State.takeGetReport, readEmpty_none invalid]
  case beginTxn => simp [State.execute, State.takeBegin, readEmpty_none invalid]
  case stageWrite => simp [State.execute, State.takeStageWrite, readStageWrite_none invalid]
  case stageDelete => simp [State.execute, State.takeStageDelete, readStageDelete_none invalid]
  case stageTally => simp [State.execute, State.takeStageTally, readStageTally_none invalid]
  case commit => simp [State.execute, State.takeCommit, readNumber_none invalid]
  case increment => simp [State.execute, State.takeIncrement, readIncrement_none invalid]
  case compact => simp [State.execute, State.takeCompact, readVictims_none invalid]
  case format => simp [State.execute, State.takeFormat, readEmpty_none invalid]

/-- A queued request that is executed at once and does nothing but reply. -/
theorem exec_replied {kind : RequestKind} (queued : isImmediate kind = false) {tag : Byte} {payload reply : List Byte}
    (h : s.executesNow kind tag payload)
    (replies : (s.executingNow kind tag payload).execute { kind, tag, payload }
      = (s.executingNow kind tag payload).reply reply) :
    exec (commandOf kind tag payload) s = .next (s.replied kind tag payload reply) := by
  rw [exec_executed queued h, replies, State.reply_executingNow h]

/-- Settles O14. -/
theorem queuedBadArguments : Obligations.QueuedBadArguments := by
  intro kind tag payload s queued invalid executes
  have class' : isImmediate kind = false := isImmediate_eq_false queued
  exact exec_replied class' executes (State.execute_badArgs tag class' invalid _)

/-! ### The replay table (R154) -/

theorem replayInsert_room {t : List ReplayEntry} {e : ReplayEntry} (h : (t.filter (fun x => x.tag ≠ e.tag)).length < 8) :
    replayInsert t e = t.filter (fun x => x.tag ≠ e.tag) ++ [e] := by
  rw [replayInsert, if_pos h]

/-- The tags being distinct, taking out an entry's tag takes out that entry alone. -/
theorem filter_tag_split {older newer : List ReplayEntry} {x e : ReplayEntry} (same : x.tag = e.tag)
    (distinct : ((older ++ x :: newer).map ReplayEntry.tag).Nodup) :
    (older ++ x :: newer).filter (fun y => y.tag ≠ e.tag) = older ++ newer := by
  rw [List.map_append, List.map_cons, List.nodup_middle, List.nodup_cons, List.mem_append] at distinct
  obtain ⟨absent, _⟩ := distinct
  have others : ∀ y ∈ older ++ newer, decide (y.tag ≠ e.tag) = true := by
    intro y m
    refine decide_eq_true fun k => absent ?_
    rw [← List.mem_append, ← List.map_append, same, ← k]
    exact List.mem_map_of_mem m
  rw [List.filter_append, List.filter_cons_of_neg (by simp [same]), ← List.filter_append, List.filter_eq_self.2 others]

theorem filter_tag_fresh {t : List ReplayEntry} {e : ReplayEntry} (fresh : ∀ x ∈ t, x.tag ≠ e.tag) :
    t.filter (fun x => x.tag ≠ e.tag) = t := List.filter_eq_self.2 fun x m => decide_eq_true (fresh x m)

/-- Settles O15: an entry of the same tag leaves room for the new one, and a table of eight other tags drops its oldest. -/
theorem replayTableInsertion : Obligations.ReplayTableInsertion := by
  intro t e short distinct
  refine ⟨fun older newer x split same => ?replaced, fun fresh room => ?joined, fun x rest fresh full split => ?oldest⟩
  case replaced =>
    subst split
    have kept := filter_tag_split same distinct
    rw [replayInsert_room, kept]
    rw [kept]
    simp only [List.length_append, List.length_cons] at short ⊢
    omega
  case joined => rw [replayInsert_room, filter_tag_fresh fresh]; rwa [filter_tag_fresh fresh]
  case oldest =>
    rw [replayInsert, filter_tag_fresh fresh, if_neg (by simp [full]), full, split]
    rfl

/-! ### The transmit queue (R156, R157, R160) -/

theorem exec_frameSent (listening : s.listening = true) : exec .frameSent s = .next s.headSent :=
  congrArg Host.Outcome.next (if_pos listening)

theorem exec_frameSent_deaf (deaf : s.listening = false) : exec .frameSent s = .next s :=
  congrArg Host.Outcome.next (if_neg (by simp [deaf]))

theorem State.headSent_empty (h : s.link.transmit = []) : s.headSent = s := by rw [State.headSent, h]

theorem State.headSent_plain {f : Frame} {rest : List Frame} (h : s.link.transmit = f :: rest)
    (plain : f.kind ≠ 0x85 ∨ f.payload ≠ [0x00]) : s.headSent = { s with link := { s.link with transmit := rest } } := by
  rw [State.headSent, h]
  exact if_neg (by simp [isRestartReply_eq_false plain])

theorem State.headSent_restart {f : Frame} {rest : List Frame} (h : s.link.transmit = f :: rest) (kind : f.kind = 0x85)
    (ok : f.payload = [0x00]) :
    s.headSent = State.takeCause { s with link := { s.link with transmit := rest } } .restartRequest := by
  rw [State.headSent, h]
  exact if_pos ((isRestartReply_iff f).2 ⟨kind, ok⟩)

/-- A warm cause in a device that runs begins a warm restart, and leaves the array and the notices as they are. -/
theorem State.takeCause_restartRequest (running : s.restarting = none) : s.takeCause .restartRequest = { s with
    restarting := some { cause := .restartRequest, cold := false, needsResetHigh := false }
    supply := { s.supply with vddGood := false } } := by
  simp [State.takeCause, isCold, running]

/-- Settles O16. -/
theorem restartBeginsWhenItsReplyIsSent : Obligations.RestartBeginsWhenItsReplyIsSent := by
  refine ⟨fun tag s answers nothing => ?answered, fun f rest s => ⟨fun running high head => ⟨fun plain => ?plain,
    fun kind ok => ?restart⟩, fun idle => ?idle⟩⟩
  case answered => rw [exec_restart_answered answers.takesNow nothing, State.handlerAnswered_room answers]
  case plain => rw [exec_frameSent (State.listening_of running high), State.headSent_plain head plain]
  case restart =>
    rw [exec_frameSent (State.listening_of running high), State.headSent_restart head kind ok]
    exact congrArg Host.Outcome.next (State.takeCause_restartRequest running)
  case idle =>
    cases listening : s.listening with
    | false => exact exec_frameSent_deaf listening
    | true =>
      simp only [State.listening, Bool.and_eq_true, Option.isNone_iff_eq_none] at listening
      obtain restarting | low | empty := idle
      · exact absurd listening.1 restarting
      · exact absurd listening.2 (by simp [low])
      · rw [exec_frameSent (State.listening_of listening.1 listening.2), State.headSent_empty empty]

theorem exec_waitingProducerPlaces (running : s.restarting = none) :
    exec .waitingProducerPlaces s = .next s.producerPlaces :=
  congrArg Host.Outcome.next (if_pos (by simp [running]))

section
variable {f : Frame} {more : List Frame} {others : List Producer} (room : s.link.transmit.length < 6)

theorem State.producerPlaces_full (full : 6 ≤ s.link.transmit.length) : s.producerPlaces = s := if_neg (Nat.not_lt.2 full)

include room

theorem State.producerPlaces_none (noWaiter : s.link.waiters = []) : s.producerPlaces = s := by
  rw [State.producerPlaces, if_pos room, noWaiter]

theorem State.producerPlaces_handler (first : s.link.waiters = .handler :: others) (waits : s.link.handlerReply = some f) :
    s.producerPlaces = { s with link := { s.link with
      waiters := others, handlerReply := none, transmit := s.link.transmit ++ [f] } } := by
  rw [State.producerPlaces, if_pos room, first]
  simp only [waits]
  rfl

/-- The executor's frame frees the executor, which takes the next request. -/
theorem State.producerPlaces_executor (first : s.link.waiters = .executor :: others) (waits : s.executor.reply = some f) :
    s.producerPlaces = State.runExecutor { s with
      link := { s.link with waiters := others, transmit := s.link.transmit ++ [f] }
      executor := { s.executor with reply := none, executing := none } } := by
  rw [State.producerPlaces, if_pos room, first]
  simp only [waits]
  rfl

theorem State.producerPlaces_noticeUnit (first : s.link.waiters = .noticeUnit :: others)
    (waits : s.notices.outgoing = f :: more) : s.producerPlaces = { s with
      link := { s.link with waiters := others, transmit := s.link.transmit ++ [f] }
      notices := { s.notices with outgoing := more } } := by
  rw [State.producerPlaces, if_pos room, first]
  simp only [waits]
  rfl

end

/-- Settles O17: the branches of the first waiting producer. -/
theorem firstWaitingProducerPlaces : Obligations.FirstWaitingProducerPlaces := by
  intro f more others s running
  rw [exec_waitingProducerPlaces running]
  refine ⟨fun full => ?full, fun room => ⟨fun first waits => ?handler, fun first waits noRequest => ?executor,
    fun first waits => ?noticeUnit, fun noWaiter => ?noWaiter⟩⟩
  case full => rw [State.producerPlaces_full full]
  case handler => rw [State.producerPlaces_handler room first waits]
  case executor =>
    rw [State.producerPlaces_executor room first waits]
    exact congrArg Host.Outcome.next (State.runExecutor_nothing (State.nothingToTake_queue noRequest))
  case noticeUnit => rw [State.producerPlaces_noticeUnit room first waits]
  case noWaiter => rw [State.producerPlaces_none room noWaiter]

end Sys2Proof.Machine
end

section
/-! The immediate requests STATUS, ABANDON and ACK_NOTICE (R39, R58, R59, R158, R167). -/

namespace Sys2Proof.Machine

variable {s : State}

/-! ### STATUS -/

theorem readStatusFlag_flag (flag : Bool) : readStatusFlag [flagByte flag] = some flag := by cases flag <;> rfl

theorem State.handle_status (flag : Bool) (tag : Byte) :
    s.handle { kind := requestCode .status, tag, payload := [flagByte flag] }
      = (if flag then { s with link := { s.link with discarded := 0 } } else s).handlerAnswered
          { kind := 0x81, tag, payload := 0x00 :: s.statusRecord } := by
  rw [State.handle, requestKindOf_code]
  dsimp only
  rw [State.handleStatus, readStatusFlag_flag]
  generalize s.statusRecord = record
  exact State.answer_eq _ _

/-- The status record's fields of the transaction. -/
def State.transactionBytes (s : State) : List Byte :=
  [txnStateCode s.txn.state] ++ beBytes 4 (s.txn.number.getD 0) ++ beBytes 1 s.txn.staging.length
    ++ beBytes 2 (dataBytes s.txn.staging)

/-- The status record's fields of the requests. -/
def State.requestBytes (s : State) : List Byte :=
  beBytes 1 s.link.queue.length ++ [match s.executor.executing with | some r => requestCode r.kind | none => 0]

/-- The status record's last fields: the supply, the notices and the discarded frames. -/
def State.lastBytes (s : State) : List Byte :=
  [supplyStateCode s.supply.state] ++ beBytes 1 s.notices.queue.length ++ beBytes 2 s.link.discarded

/-- The status record of a mounted store, its figures shown. -/
theorem State.statusRecord_mounted (mounted : s.mounted = true) : s.statusRecord =
    [storeStateCode s.store] ++ s.transactionBytes ++ s.requestBytes ++ [phaseCode s.compaction.phase]
      ++ [match s.compaction.victim with | some p => BitVec.ofNat 8 p.val | none => 0xFF]
      ++ beBytes 1 (s.countIn .erased) ++ beBytes 1 (s.countIn .sealed) ++ beBytes 1 (s.countIn .retired)
      ++ beBytes 1 s.freeCells ++ beBytes 2 s.directory.length ++ beBytes 2 s.tombstoneCount ++ s.lastBytes := by
  have store : s.store ≠ .mounting := by
    intro h
    simp [State.mounted, h] at mounted
  delta State.statusRecord
  simp only [State.transactionBytes, State.requestBytes, State.lastBytes, mounted, if_true,
    if_neg store, stagedBytes_eq, List.append_assoc, List.cons_append, List.nil_append, State.erasedCount]
  all_goals rfl

/-- The status record of a store that is not mounted, its array and engine figures zero. -/
theorem State.statusRecord_unmounted (unmounted : s.mounted = false) : s.statusRecord =
    [storeStateCode s.store] ++ s.transactionBytes ++ s.requestBytes ++ [0, 0xFF] ++ List.replicate 4 0
      ++ beBytes 2 (if s.store = .mounting then 0 else s.directory.length)
      ++ beBytes 2 (if s.store = .mounting then 0 else s.tombstoneCount) ++ s.lastBytes := by
  delta State.statusRecord
  simp only [State.transactionBytes, State.requestBytes, State.lastBytes, unmounted, Bool.false_eq_true,
    if_false, stagedBytes_eq, List.append_assoc, List.cons_append, List.nil_append]
  all_goals rfl

/-- Settles O18: the handler answers with the record, which is spelled for a mounted store and for one that is not. -/
theorem statusAnswersTheRecord : Obligations.StatusAnswersTheRecord := by
  refine ⟨fun tag s takes nothing => ⟨?plain, ?clear⟩, fun s => ⟨?length, fun store => ?mounted, fun store => ?formatting,
    fun store state number staging queue executing => ?mounting⟩⟩
  case plain => exact exec_handled takes (State.handle_status false tag) (nothing.handlerAnswered _)
  case clear =>
    have still : State.nothingToTake { s with link := { s.link with discarded := 0 } } := nothing
    exact exec_handled takes (State.handle_status true tag) (still.handlerAnswered _)
  case length =>
    cases mounted : s.mounted with
    | true =>
      rw [State.statusRecord_mounted mounted]
      simp [State.transactionBytes, State.requestBytes, State.lastBytes, beBytes_length]
    | false =>
      rw [State.statusRecord_unmounted mounted]
      simp [State.transactionBytes, State.requestBytes, State.lastBytes, beBytes_length]
  case mounted =>
    rw [State.statusRecord_mounted (by simpa [State.mounted] using store)]
    obtain store | store := store
    · rw [store]
      rfl
    · rw [store]
      rfl
  case formatting =>
    rw [State.statusRecord_unmounted (by simp [State.mounted, store]), store]
    rfl
  case mounting =>
    rw [State.statusRecord_unmounted (by simp [State.mounted, store]), State.transactionBytes, State.requestBytes,
      if_pos store, if_pos store, store, state, number, staging, queue, executing]
    exact congrArg (· ++ s.lastBytes) (by decide)

/-! ### ABANDON -/

section
variable {f : Frame} {number : Nat} (valid : readNumber f.payload = some number)
include valid

theorem State.handleAbandon_noTxn (state : s.txn.state = .none) : s.handleAbandon f = s.answer f (bare .noTxn) := by
  simp [State.handleAbandon, valid, state]

theorem State.handleAbandon_wrongTxn (state : s.txn.state ≠ .none) (other : s.txn.number ≠ some number) :
    s.handleAbandon f = s.answer f (bare .wrongTxn) := by
  cases h : s.txn.state
  · exact absurd h state
  all_goals simp [State.handleAbandon, valid, h, other]

theorem State.handleAbandon_open (state : s.txn.state = .opened) (same : s.txn.number = some number) :
    s.handleAbandon f = s.endTxn.answer f (bare .ok) := by
  simp [State.handleAbandon, valid, state, same]

theorem State.handleAbandon_committing (state : s.txn.state = .committing) (same : s.txn.number = some number)
    {c : CommitRecord} (commit : s.executor.commit = some c) : s.handleAbandon f =
      if c.markerGranted then s.answer f (bare .tooLate) else (s.endTxn.answer f (bare .ok)).abandonCommit c := by
  simp [State.handleAbandon, valid, state, same, commit]

end

theorem State.handle_abandon (tag : Byte) (payload : List Byte) :
    s.handle { kind := requestCode .abandon, tag, payload }
      = s.handleAbandon { kind := requestCode .abandon, tag, payload } := by
  rw [State.handle, requestKindOf_code]

/-- A commit whose transaction has ended waits for the operation of its own that is in flight. -/
theorem State.abandonCommit_flying {c : CommitRecord} {f : Flight} (flight : s.array.inFlight = some f)
    (own : f.owner = some .executor) : s.abandonCommit c = s.request .executor none :=
  if_pos (by simp [State.flying, flight, own])

/-- With nothing in flight and no run begun it stops, and its reply finds a place. -/
theorem State.abandonCommit_stops {c : CommitRecord} {r : Request} (still : s.array.inFlight = none) (noRun : c.run = none)
    (executing : s.executor.executing = some r) (room : s.txRoom = true) : s.abandonCommit c = State.answered { s with
      array := { s.array with executorRequest := none }
      executor := { s.executor with commit := none } } r [0x40] := by
  rw [State.abandonCommit, if_neg (by simp [State.flying, still]), noRun]
  exact State.reply_room (s := { s with
    array := { s.array with executorRequest := none }
    executor := { s.executor with commit := none } }) executing room _

/-- ABANDON of a commit before its marker grant: the transaction ends and is answered OK, and the commit ends with it. -/
theorem State.handle_abandon_ends (answers : s.answersNow) {payload : List Byte} {number : Nat}
    (valid : readNumber payload = some number) (state : s.txn.state = .committing) (same : s.txn.number = some number)
    {c : CommitRecord} (commit : s.executor.commit = some c) (granted : c.markerGranted = false) (tag : Byte) :
    s.handle { kind := requestCode .abandon, tag, payload }
      = (s.endTxn.withFrame { kind := 0x82, tag, payload := [0x00] }).abandonCommit c := by
  rw [State.handle_abandon, State.handleAbandon_committing valid state same commit, granted,
    State.answer_room (s := s.endTxn) answers.txRoom]
  rfl

/-- Settles O19: the branches of ABANDON by the transaction's state, and those of a commit it stops. -/
theorem abandonByTheTransaction : Obligations.AbandonByTheTransaction := by
  intro tag payload s valid
  have number : readNumber payload = some (beNat payload) := readNumber_some valid
  refine ⟨fun takes nothing state same c commit granted => ?tooLate, fun answers => ⟨fun nothing state => ?noTxn,
    fun nothing state other => ?wrongTxn, fun nothing state same => ?opened,
    fun c r state same commit granted executing => ⟨fun f flight own => ?flying, fun still noRun noRequest room => ?stops⟩⟩⟩
  case tooLate =>
    refine exec_answered takes nothing (kind := .abandon) ((State.handle_abandon tag payload).trans ?_)
    exact (State.handleAbandon_committing number state same commit).trans (if_pos granted)
  case noTxn =>
    exact exec_answeredNow answers nothing (kind := .abandon)
      ((State.handle_abandon tag payload).trans (State.handleAbandon_noTxn number state))
  case wrongTxn =>
    exact exec_answeredNow answers nothing (kind := .abandon)
      ((State.handle_abandon tag payload).trans (State.handleAbandon_wrongTxn number state other))
  case opened =>
    refine exec_handled answers.takesNow (kind := .abandon) ((State.handle_abandon tag payload).trans ?_) nothing
    exact (State.handleAbandon_open number state same).trans (State.answer_room (s := s.endTxn) answers.txRoom _ _)
  case flying =>
    have ended := State.handle_abandon_ends answers number state same commit granted tag
    have busy : s.executor.executing ≠ none := by simp [executing]
    exact exec_handled answers.takesNow (kind := .abandon)
      (ended.trans (State.abandonCommit_flying (s := s.endTxn.withFrame _) flight own)) (Or.inl busy)
  case stops =>
    have ended := State.handle_abandon_ends answers number state same commit granted tag
    have noWaiter : s.link.waiters = [] := answers.2.2.2.2.2
    have places : (s.endTxn.withFrame { kind := 0x82, tag, payload := [0x00] }).txRoom = true := by
      simp only [State.txRoom, State.withFrame, Config.transmitCapacity, State.endTxn_fields, noWaiter, List.length_append,
        List.length_singleton, List.isEmpty_nil, Bool.and_true, decide_eq_true_eq]
      omega
    exact exec_handled answers.takesNow (kind := .abandon)
      (ended.trans (State.abandonCommit_stops (s := s.endTxn.withFrame _) still noRun executing places))
      (State.nothingToTake_queue noRequest)

/-! ### ACK_NOTICE -/

theorem noticesThrough_found {before : List Notice} (n : Notice) (after : List Notice)
    (others : ∀ x ∈ before, x.number ≠ n.number) :
    noticesThrough (before ++ n :: after) n.number = some (before ++ [n]) := by
  induction before with
  | nil => exact if_pos rfl
  | cons m before ih =>
    rw [List.forall_mem_cons] at others
    rw [List.cons_append, noticesThrough, if_neg others.1, ih others.2]
    rfl

theorem noticesThrough_none {queue : List Notice} {number : Nat} (h : ∀ x ∈ queue, x.number ≠ number) :
    noticesThrough queue number = none := by
  induction queue with
  | nil => rfl
  | cons m queue ih =>
    rw [List.forall_mem_cons] at h
    rw [noticesThrough, if_neg h.1, ih h.2]
    rfl

theorem isStart_eq (n : Notice) : isStart n = (noticeCode n.content == 0x60) := by
  unfold isStart
  cases n.content <;> rfl

theorem readNoticeNumber_some {number : Byte} (h : number ≠ 0) : readNoticeNumber [number] = some number.toNat := if_neg h

/-- The notices gone, and with them their unsent frames and the turns of these; a START among them counts as acknowledged. -/
def State.acknowledge (s : State) (gone : List Notice) : State :=
  State.dropUnsent { s with
    notices := { s.notices with
      queue := s.notices.queue.drop gone.length
      startAcknowledged := s.notices.startAcknowledged || gone.any isStart
      earlierCauses := if gone.any isStart then [] else s.notices.earlierCauses } } (s.notices.queue.drop gone.length)

theorem State.acknowledge_eq {gone kept : List Notice} (queue : s.notices.queue = gone ++ kept) :
    s.acknowledge gone = { s with
      notices := { s.notices with
        queue := kept
        outgoing := s.notices.outgoing.filter (frameOfQueued kept)
        startAcknowledged := s.notices.startAcknowledged || gone.any isStart
        earlierCauses := if gone.any isStart then [] else s.notices.earlierCauses }
      link := { s.link with waiters := keepTurns (frameOfQueued kept) s.notices.outgoing s.link.waiters } } := by
  rw [State.acknowledge, queue, List.drop_left]
  rfl

theorem State.handle_ackNotice_found (tag : Byte) {number : Byte} (nonzero : number ≠ 0) {gone kept : List Notice}
    (queue : s.notices.queue = gone ++ kept) (through : noticesThrough s.notices.queue number.toNat = some gone) :
    s.handle { kind := requestCode .ackNotice, tag, payload := [number] }
      = (s.acknowledge gone).handlerAnswered
          { kind := 0x83, tag, payload := [0x00] ++ beBytes 1 gone.length ++ beBytes 1 kept.length } := by
  rw [State.handle, requestKindOf_code]
  dsimp only
  rw [State.handleAckNotice, readNoticeNumber_some nonzero]
  dsimp only
  rw [through]
  dsimp only
  refine (State.answer_eq (s := s.acknowledge gone) _ _).trans ?_
  rw [queue, List.drop_left]
  rfl

theorem State.handle_ackNotice_absent (tag : Byte) {number : Byte} (nonzero : number ≠ 0)
    (absent : noticesThrough s.notices.queue number.toNat = none) :
    s.handle { kind := requestCode .ackNotice, tag, payload := [number] }
      = s.answer { kind := requestCode .ackNotice, tag, payload := [number] } [0x61] := by
  rw [State.handle, requestKindOf_code]
  dsimp only
  rw [State.handleAckNotice, readNoticeNumber_some nonzero]
  dsimp only
  rw [absent]
  rfl

/-- Settles O20: the notices up to the number are removed, the turns of their unsent frames with them. -/
theorem ackNoticeRemovesThrough : Obligations.AckNoticeRemovesThrough := by
  intro tag number s nonzero takes nothing
  refine ⟨fun before after n queue same others => ?found, fun absent => ?noNotice⟩
  case found =>
    intro started belongs t
    have split : s.notices.queue = (before ++ [n]) ++ after := by rw [queue, List.append_assoc, List.singleton_append]
    have through : noticesThrough s.notices.queue number.toNat = some (before ++ [n]) := by
      rw [queue, ← same]
      exact noticesThrough_found n after fun x m => same ▸ others x m
    have starts : isStart = fun x => noticeCode x.content == 0x60 := funext isStart_eq
    have acknowledged : s.acknowledge (before ++ [n]) = t := by
      rw [State.acknowledge_eq split, starts]
      rfl
    have still : State.nothingToTake t := nothing
    have answer := State.handle_ackNotice_found tag nonzero split through
    rw [acknowledged, List.length_append] at answer
    refine ⟨exec_handled takes (kind := .ackNotice) answer (still.handlerAnswered _), ?_⟩
    simp [State.alertNLow, t]
  case noNotice =>
    exact exec_answered takes nothing (kind := .ackNotice)
      (State.handle_ackNotice_absent tag nonzero (noticesThrough_none absent))

end Sys2Proof.Machine
end

section
/-! The read-only requests (R18 to R20, R100, R170) and the content of reports and notices. -/

namespace Sys2Proof.Machine

variable {s : State}

/-! ### READ -/

section
variable {payload : List Byte} {ident : Nat} (valid : readIdent payload = some ident)
include valid

theorem State.takeRead_notFound (absent : s.entryOf ident = none) : s.takeRead payload = s.reply (bare .notFound) := by
  rw [State.takeRead, valid]
  dsimp only
  rw [absent]

theorem State.takeRead_found {e : DirEntry} (found : s.entryOf ident = some e) : s.takeRead payload = match e.body with
    | .tombstone => s.reply (bare .notFound)
    | .tally value _ => s.reply ([0x00, 0x02] ++ beBytes 4 e.gen ++ beBytes 4 value)
    | .blob _ => ({ s with executor := { s.executor with blobRead := some ident } }).request .executor (some .read) := by
  rw [State.takeRead, valid]
  dsimp only
  rw [found]
  dsimp only
  cases body : e.body <;> rfl

end

/-- Settles O22: the branches of READ by the directory's entry. -/
theorem readByTheDirectory : Obligations.ReadByTheDirectory := by
  intro tag payload s valid executes
  have ident : readIdent payload = some (beNat payload) := readIdent_some valid
  have found {e : DirEntry} (entry : s.entryOf (beNat payload) = some e) :=
    State.takeRead_found (s := s.executingNow .read tag payload) ident entry
  refine ⟨fun absent => ?absent, fun e entry => ⟨fun tombstone => ?tombstone, fun value bumps tally => ?tally,
    fun length blob => ?blob⟩⟩
  case absent => exact exec_replied (kind := .read) rfl executes (State.takeRead_notFound ident absent)
  case tombstone =>
    exact exec_replied (kind := .read) rfl executes ((found entry).trans (by rw [tombstone]; rfl))
  case tally =>
    exact exec_replied (kind := .read) rfl executes ((found entry).trans (by rw [tally]))
  case blob =>
    refine (exec_executed (kind := .read) rfl executes).trans (congrArg Host.Outcome.next ((found entry).trans ?_))
    rw [blob]
    rfl

/-! ### The read of a BLOB -/

theorem Memory.readRun_word {m : Memory} {a : Nat} {w : CellWord} (known : m.read a = .word w) (n k : Nat)
    (noise : List CellWord) : m.readRun a (n + 1) noise k
      = (w :: (m.readRun (a + 1) n noise k).1, (m.readRun (a + 1) n noise k).2) := by
  simp [Memory.readRun, known]

theorem Memory.readRun_known (m : Memory) {noise : List CellWord} {words : Nat → CellWord} (k : Nat) :
    ∀ (n a : Nat), (∀ i, i < n → m.read (a + i) = .word (words i)) → m.readRun a n noise k = ((List.range n).map words, k) := by
  intro n
  induction n generalizing words with
  | zero => exact fun _ _ => rfl
  | succ n ih =>
    intro a known
    have first : m.read a = .word (words 0) := known 0 (Nat.succ_pos n)
    have rest := ih (words := fun i => words (i + 1)) (a + 1) fun i h => by
      rw [Nat.add_assoc, Nat.add_comm 1 i]
      exact known (i + 1) (Nat.succ_lt_succ h)
    rw [Memory.readRun_word first, rest, List.range_succ_eq_map, List.map_cons, List.map_map]
    rfl

theorem Memory.readRun_length (m : Memory) : ∀ (n a k : Nat) (noise : List CellWord), (m.readRun a n noise k).1.length = n := by
  intro n
  induction n with
  | zero => exact fun _ _ _ => rfl
  | succ n ih =>
    intro a k noise
    cases content : m.read a with
    | word w => simp [Memory.readRun, content, ih]
    | indeterminate => cases noise <;> simp [Memory.readRun, content, ih]

theorem blobAgrees_iff (e : DirEntry) (words : List CellWord) : blobAgrees e words = true ↔
    checkMatches words = true ∧ cellByte (words.headD blankCell) 0 = 0x01 ∧
      cellField (words.headD blankCell) 2 2 = e.ident ∧ cellField (words.headD blankCell) 8 4 = e.gen := by
  simp only [blobAgrees, Bool.and_eq_true, decide_eq_true_eq]
  exact ⟨fun ⟨⟨⟨k, c⟩, i⟩, g⟩ => ⟨c, k, i, g⟩, fun ⟨c, k, i, g⟩ => ⟨⟨⟨k, c⟩, i⟩, g⟩⟩

/-- The completed read of a BLOB that the directory holds. -/
theorem State.blobRead_found {ident length : Nat} {e : DirEntry} (entry : s.entryOf ident = some e)
    (blob : e.body = .blob length) (words : List CellWord) : s.blobRead ident words =
      State.reply { s with executor := { s.executor with blobRead := none } }
        (if blobAgrees e words then
          [0x00, 0x01] ++ beBytes 4 e.gen ++ beBytes 1 length ++ ((words.drop 1).flatMap cellBytes).take length
        else [0x32]) := by
  have same : State.entryOf { s with executor := { s.executor with blobRead := none } } ident = some e := entry
  rw [State.blobRead]
  dsimp only
  rw [same]
  dsimp only
  rw [blob]
  dsimp only
  cases blobAgrees e words <;> rfl

/-- A reply that finds a place, with no request waiting behind it, frees the executor and no more. -/
theorem State.reply_runExecutor {r : Request} (executing : s.executor.executing = some r) (room : s.txRoom = true)
    (noRequest : s.link.queue = []) (p : List Byte) : (s.reply p).runExecutor = s.answered r p := by
  rw [State.reply_room executing room]
  exact State.runExecutor_nothing (State.nothingToTake_queue noRequest)

/-- The completion of a read that the executor asked for. -/
theorem exec_readComplete_executor {noise : List CellWord} {page : PageIx} {first count ident : Nat}
    (flight : s.array.inFlight = some { owner := some .executor, op := .read page first count })
    (running : s.restarting = none) (reads : s.executor.blobRead = some ident) :
    exec (.readComplete noise) s
      = .next (State.runExecutor (State.blobRead { s.landed with
          freeIndex := (s.array.cells.readRun (cellAddress page first) count noise s.freeIndex).2 } ident
          (s.array.cells.readRun (cellAddress page first) count noise s.freeIndex).1)) := by
  change execReadComplete noise s = _
  rw [execReadComplete, flight]
  simp [running, State.readDone, reads]

/-- Settles O23: the read's content agrees or does not, and a run of cells reads cell by cell. -/
theorem blobReadIsAnswered : Obligations.BlobReadIsAnswered := by
  refine ⟨fun noise ident length first count page e r s flight finishes reads entry blob => ?answered,
    fun m a n k noise words known => Memory.readRun_known m k n a known,
    fun m a n k noise => Memory.readRun_length m n a k noise, fun m a k unknown => ?indeterminate⟩
  case answered =>
    intro got header agrees t
    obtain ⟨running, executing, noRequest, places, noWaiter⟩ := finishes
    have room : t.txRoom = true := State.finishes.txRoom ⟨running, executing, noRequest, places, noWaiter⟩
    have outcome (reply : List Byte)
        (chosen : (if blobAgrees e got.1 then
          [0x00, 0x01] ++ beBytes 4 e.gen ++ beBytes 1 length ++ ((got.1.drop 1).flatMap cellBytes).take length
        else [0x32]) = reply) : exec (.readComplete noise) s = .next (t.answered r reply) := by
      rw [exec_readComplete_executor flight running reads]
      refine congrArg Host.Outcome.next ?_
      rw [State.blobRead_found (s := { s.landed with freeIndex := got.2 }) entry blob, chosen]
      exact State.reply_runExecutor (s := t) executing room noRequest reply
    exact ⟨fun yes => outcome _ (if_pos ((blobAgrees_iff e got.1).2 yes)),
      fun no => outcome _ (if_neg fun h => no ((blobAgrees_iff e got.1).1 h))⟩
  case indeterminate =>
    refine ⟨fun x rest => ?_, ?_⟩
    · simp [Memory.readRun, unknown]
    · simp [Memory.readRun, unknown]

/-! ### LIST and WEAR -/

theorem listReply_split {first : Nat} {before rest : List DirEntry} (below : ∀ e ∈ before, e.ident < first)
    (above : ∀ e ∈ rest, first ≤ e.ident) (count : Nat) : listReply (before ++ rest) first count =
      [0x00] ++ beBytes 1 (rest.take count).length ++ [if (rest.take count).length < rest.length then 1 else 0]
        ++ (rest.take count).flatMap listedBytes := by
  have shown : (before ++ rest).filter (fun e => first ≤ e.ident) = rest := by
    rw [List.filter_append, List.filter_eq_nil_iff.2 fun e m => by simpa using below e m,
      List.filter_eq_self.2 fun e m => by simpa using above e m, List.nil_append]
  have more : (rest.take count).length < rest.length ↔ count < rest.length := by
    rw [List.length_take]
    omega
  have flag : flagByte (decide (count < rest.length)) = if (rest.take count).length < rest.length then 1 else 0 := by
    by_cases h : count < rest.length
    · rw [decide_eq_true h, if_pos (more.2 h)]
      rfl
    · rw [decide_eq_false h, if_neg (mt more.1 h)]
      rfl
  simp only [listReply, shown, flag]
  rfl

/-- Settles O24. -/
theorem listWalksTheDirectory : Obligations.ListWalksTheDirectory := by
  intro tag payload before rest s executes
  refine ⟨fun valid directory below above => ?listed, fun invalid => ?badArgs⟩
  case listed =>
    refine exec_replied (kind := .list) rfl executes ?_
    have bytes := listReply_split below above (beNat (payload.drop 2))
    rw [← directory] at bytes
    change State.takeList _ payload = _
    rw [State.takeList, readListArgs_some valid]
    exact congrArg (State.reply (s.executingNow .list tag payload)) bytes
  case badArgs => exact exec_replied (kind := .list) rfl executes (State.execute_badArgs tag rfl invalid _)

/-- The pages from first on, count of them. -/
theorem allPages_filter {first count : Nat} (inside : first + count ≤ 32) :
    allPages.filter (fun p => first ≤ p.val ∧ p.val < first + count)
      = (List.range count).map (fun k => Fin.ofNat 32 (first + k)) := by
  have injective : Function.Injective (List.map (Fin.val : PageIx → Nat)) := List.map_injective_iff.2 Fin.val_injective
  refine injective ?_
  have indices : (List.range 32).filter (fun k => first ≤ k ∧ k < first + count) = (List.range count).map (first + ·) := by
    have parts : 32 = first + (count + (32 - first - count)) := by omega
    rw [parts, List.range_add, List.range_add, List.map_append, List.filter_append, List.filter_append,
      List.filter_eq_nil_iff.2, List.filter_eq_self.2, List.filter_eq_nil_iff.2, List.nil_append, List.append_nil]
    all_goals
      intro k m
      simp only [List.mem_map, List.mem_range] at m
    · obtain ⟨a, ⟨b, _, rfl⟩, rfl⟩ := m
      simp
    · obtain ⟨a, h, rfl⟩ := m
      simp [h]
    · simp [m]
  calc (allPages.filter (fun p => first ≤ p.val ∧ p.val < first + count)).map Fin.val
      = (allPages.map Fin.val).filter (fun k => first ≤ k ∧ k < first + count) := by
        rw [List.filter_map]
        rfl
    _ = (List.range count).map (first + ·) := by rw [allPages, List.map_coe_finRange_eq_range, indices]
    _ = ((List.range count).map (fun k => Fin.ofNat 32 (first + k))).map Fin.val := by
        rw [List.map_map]
        refine List.map_congr_left fun k m => ?_
        have : first + k < 32 := by have := List.mem_range.1 m; omega
        simp [Nat.mod_eq_of_lt this]

/-- A WEAR record with the used and live cells as they show (R100). -/
theorem wearBytes_eq (r : PageRec) : wearBytes r = [pageStateCode r.state] ++ beBytes 4 r.eraseCount
    ++ (match r.state with
      | .erased => [2, 0] | .retired => [2, 0] | _ => beBytes 1 r.used ++ beBytes 1 r.live) := by
  unfold wearBytes
  cases r.state <;> simp [beBytes]

theorem State.takeWear_valid {payload : List Byte} (valid : payloadValid .wear payload) : s.takeWear payload
    = s.reply ([0x00] ++ beBytes 1 (beNat (payload.take 1)) ++ beBytes 1 (beNat (payload.drop 1))
      ++ (List.range (beNat (payload.drop 1))).flatMap (fun k =>
        wearBytes (s.page (Fin.ofNat 32 (beNat (payload.take 1) + k))))) := by
  rw [State.takeWear, readWearArgs_some valid]
  dsimp only
  rw [State.wearReply, allPages_filter valid.2.2.2.2, List.flatMap_map]
  rfl

/-- Settles O25. -/
theorem wearReportsThePageTable : Obligations.WearReportsThePageTable := by
  intro tag payload s
  refine ⟨fun executes valid => ?shown, fun executes invalid => ?badArgs, fun answers store => ?notReady⟩
  case shown =>
    refine exec_replied (kind := .wear) rfl executes ((State.takeWear_valid valid).trans ?_)
    simp only [wearBytes_eq]
    rfl
  case badArgs => exact exec_replied (kind := .wear) rfl executes (State.execute_badArgs tag rfl invalid _)
  case notReady =>
    have nothing : s.nothingToTake := store.elim (fun h => Or.inr (Or.inl h)) (fun h => Or.inr (Or.inr (Or.inl h)))
    have unmounted : s.mounted = false := by obtain h | h := store <;> simp [State.mounted, h]
    exact exec_answeredNow answers nothing (kind := .wear)
      ((State.handle_queued rfl tag payload).trans (State.handleQueued_notMounted unmounted _))

/-! ### The report and the notices -/

/-- Up to four causes, the missing ones 0. -/
theorem earlierBytes (code : Cause → Byte) (causes : List Cause) (short : causes.length ≤ 4) :
    (List.range 4).map (fun k => match causes[k]? with | some c => code c | none => 0)
      = causes.map code ++ List.replicate (4 - causes.length) 0 := by
  match causes, short with
  | [], _ => rfl
  | [_], _ => rfl
  | [_, _], _ => rfl
  | [_, _, _], _ => rfl
  | [_, _, _, _], _ => rfl

theorem reportFlags (mark truncated : Bool) : flagByte mark ||| (flagByte truncated <<< 1) = match mark, truncated with
    | false, false => (0 : Byte) | true, false => 1 | false, true => 2 | true, true => 3 := by
  cases mark <;> cases truncated <;> rfl

/-- Settles O26: the report's bytes in order, and each notice's content and code. -/
theorem getReportAnswersTheRecord : Obligations.GetReportAnswersTheRecord := by
  refine ⟨fun tag s executes => ?answered, fun r => ⟨?length, fun short => ?bytes, rfl⟩, fun _ _ _ => rfl, fun _ => rfl,
    fun _ => ⟨rfl, rfl⟩, fun _ => rfl, ⟨rfl, rfl⟩, fun _ => rfl, fun _ _ _ => rfl, fun _ => rfl, fun _ _ => rfl, fun _ => rfl,
    fun _ => rfl⟩
  case answered => exact exec_replied (kind := .getReport) rfl executes rfl
  case length => simp [reportBytes, beBytes_length]
  case bytes =>
    rw [List.append_assoc _ (r.earlier.map _), ← earlierBytes _ r.earlier short]
    exact congrArg₂ (· ++ ·) rfl (congrArg (fun b => [b]) (reportFlags r.summary.formatMark r.summary.truncated))

end Sys2Proof.Machine
end

section
/-! Transactions and staging (R24, R27 to R35, R38): BEGIN, the shared checks, the three STAGE requests and the idle timer. -/

namespace Sys2Proof.Machine

variable {s : State}

/-! ### BEGIN -/

theorem State.takeBegin_checks (s : State) : s.takeBegin [] =
    if s.txn.state ≠ .none then s.reply [0x21]
    else if s.store = .readOnly then s.reply [0x06]
    else if s.supply.state = .cautionLong then s.reply [0x33]
    else if s.txn.nextNumber = 4294967295 then s.reply [0x51]
    else State.reply { s with txn :=
        { state := .opened, number := some s.txn.nextNumber, idleRunning := true, nextNumber := s.txn.nextNumber + 1,
          staging := [] } } ([0x00] ++ beBytes 4 s.txn.nextNumber) := rfl

/-- Settles O27: the checks in order, and the transaction opened. -/
theorem beginOpensATransaction : Obligations.BeginOpensATransaction := by
  intro tag s executes
  have checks := State.takeBegin_checks (s.executingNow .beginTxn tag [])
  have replied {reply : List Byte}
      (branch : (s.executingNow .beginTxn tag []).takeBegin [] = (s.executingNow .beginTxn tag []).reply reply) :
      exec (.beginTxn tag []) s = .next (s.replied .beginTxn tag [] reply) :=
    exec_replied (kind := .beginTxn) rfl executes branch
  refine ⟨fun state => ?txnOpen, fun state store => ?readOnly, fun state store supply => ?supplyLow,
    fun state store supply last => ?limit, fun state store supply free => ?opened⟩
  case txnOpen => exact replied (checks.trans (if_pos state))
  all_goals replace checks := checks.trans (if_neg (not_not.2 state))
  case readOnly => exact replied (checks.trans (if_pos store))
  all_goals replace checks := checks.trans (if_neg store)
  case supplyLow => exact replied (checks.trans (if_pos supply))
  all_goals replace checks := checks.trans (if_neg supply)
  case limit => exact replied (checks.trans (if_pos last))
  case opened =>
    have executes' : State.executesNow { s with txn :=
        { state := .opened, number := some s.txn.nextNumber, idleRunning := true, nextNumber := s.txn.nextNumber + 1,
          staging := [] } } .beginTxn tag [] := executes
    refine (exec_executed (kind := .beginTxn) rfl executes).trans (congrArg Host.Outcome.next ?_)
    exact (checks.trans (if_neg free)).trans (State.reply_executingNow executes' _)

/-! ### The checks that the STAGE requests and COMMIT share -/

/-- Whatever a STAGE request or a COMMIT would do, it passes these checks first. -/
def State.checked (s : State) (number : Nat) (passed : State) : State :=
  if s.txn.state ≠ .opened then s.reply [0x20]
  else if s.txn.number ≠ some number then s.reply [0x22]
  else if s.store = .readOnly then s.reply [0x06]
  else if s.supply.state = .cautionLong then s.reply [0x33]
  else passed

/-- What a STAGE request does with its effect. -/
def State.stageEffect (s : State) (ident : Nat) (op : StagedOp) : StageEffect → State
  | .refuse r => s.reply (bare r)
  | .add => s.capStage ident (s.txn.staging ++ [op])
  | .replace => s.capStage ident (s.txn.staging.map (fun x => if opIdent x = ident then op else x))
  | .remove => s.acceptStage (s.txn.staging.filter (fun x => opIdent x ≠ ident))

theorem State.stage_checked (mounted : s.store = .ready ∨ s.store = .readOnly) (number ident : Nat) (op : StagedOp)
    (effect : StageEffect) : s.stage number ident op effect = s.checked number (s.stageEffect ident op effect) := by
  have same : s.store ≠ .ready ↔ s.store = .readOnly := by obtain h | h := mounted <;> simp [h]
  unfold State.stage State.checked
  simp only [same]
  cases effect <;> rfl

theorem State.takeCommit_checked {payload : List Byte} (valid : payloadValid .commit payload) :
    s.takeCommit payload = s.checked (beNat (payload.take 4)) s.beginCommit := by
  rw [State.takeCommit, readNumber_some valid, List.take_of_length_le (Nat.le_of_eq valid.1)]
  rfl

section
variable {p : List Byte}

theorem State.takeStageWrite_valid (valid : payloadValid .stageWrite p) : s.takeStageWrite p
    = s.stage (beNat (p.take 4)) (beNat ((p.drop 4).take 2)) (.write (beNat ((p.drop 4).take 2)) (p.drop 6))
        (s.writeEffect (beNat ((p.drop 4).take 2))) := by
  rw [State.takeStageWrite, readStageWrite_some valid]

theorem State.takeStageDelete_valid (valid : payloadValid .stageDelete p) : s.takeStageDelete p
    = s.stage (beNat (p.take 4)) (beNat ((p.drop 4).take 2)) (.delete (beNat ((p.drop 4).take 2)))
        (s.deleteEffect (beNat ((p.drop 4).take 2))) := by
  rw [State.takeStageDelete, readStageDelete_some valid]

theorem State.takeStageTally_valid (valid : payloadValid .stageTally p) : s.takeStageTally p
    = s.stage (beNat (p.take 4)) (beNat ((p.drop 4).take 2))
        (.createTally (beNat ((p.drop 4).take 2)) (beNat (p.drop 6))) (s.tallyEffect (beNat ((p.drop 4).take 2))) := by
  rw [State.takeStageTally, readStageTally_some valid]

end

/-- A STAGE request or a COMMIT meets the shared checks. -/
theorem State.execute_checked (mounted : s.store = .ready ∨ s.store = .readOnly) {kind : RequestKind} {tag : Byte}
    {payload : List Byte} (shared : kind ∈ [.stageWrite, .stageDelete, .stageTally, .commit])
    (valid : payloadValid kind payload) :
    ∃ passed, s.execute { kind, tag, payload } = s.checked (beNat (payload.take 4)) passed := by
  simp only [List.mem_cons, List.not_mem_nil, or_false] at shared
  obtain rfl | rfl | rfl | rfl := shared
  case inl => exact ⟨_, (State.takeStageWrite_valid valid).trans (State.stage_checked mounted _ _ _ _)⟩
  case inr.inl => exact ⟨_, (State.takeStageDelete_valid valid).trans (State.stage_checked mounted _ _ _ _)⟩
  case inr.inr.inl => exact ⟨_, (State.takeStageTally_valid valid).trans (State.stage_checked mounted _ _ _ _)⟩
  case inr.inr.inr => exact ⟨_, State.takeCommit_checked valid⟩

/-- Settles O28. -/
theorem transactionChecks : Obligations.TransactionChecks := by
  intro kind tag payload s shared valid executes
  have queued : isImmediate kind = false := isImmediate_eq_false (by revert shared; cases kind <;> decide)
  obtain ⟨passed, checks⟩ := State.execute_checked (s := s.executingNow kind tag payload) (tag := tag) executes.2.1 shared valid
  have replied {reply : List Byte}
      (branch : (s.executingNow kind tag payload).checked (beNat (payload.take 4)) passed
        = (s.executingNow kind tag payload).reply reply) :
      exec (commandOf kind tag payload) s = .next (s.replied kind tag payload reply) :=
    exec_replied queued executes (checks.trans branch)
  refine ⟨fun state => ?noTxn, fun state other => ?wrongTxn, fun ⟨state, same⟩ store => ?readOnly,
    fun ⟨state, same⟩ store supply => ?supplyLow⟩
  case noTxn => exact replied (if_pos state)
  case wrongTxn => exact replied ((if_neg (not_not.2 state)).trans (if_pos other))
  case readOnly =>
    exact replied ((if_neg (not_not.2 state)).trans ((if_neg (not_not.2 same)).trans (if_pos store)))
  case supplyLow =>
    exact replied ((if_neg (not_not.2 state)).trans ((if_neg (not_not.2 same)).trans ((if_neg store).trans (if_pos supply))))

/-! ### The effective view, and the kind checks -/

section
variable {ident : Nat} {before after : List StagedOp} {op : StagedOp}

theorem State.unstaged.effectiveView (h : s.unstaged ident) : s.effectiveView ident = directoryView (s.entryOf ident) := by
  rw [State.effectiveView, h.stagedOn]

/-- The view of a staged operation alone. -/
def stagedView : StagedOp → View
  | .write _ _ => .blob
  | .createTally _ _ => .tally
  | .delete _ => .tombstone

theorem State.stagedAt.effectiveView (h : s.stagedAt ident before op after) : s.effectiveView ident = stagedView op := by
  rw [State.effectiveView, h.stagedOn]
  cases op <;> rfl

theorem State.writeEffect_tally (h : s.effectiveView ident = .tally) : s.writeEffect ident = .refuse .wrongKind := by
  rw [State.writeEffect, h]

theorem State.writeEffect_other (h : s.effectiveView ident ≠ .tally) :
    s.writeEffect ident = if (stagedOn s.txn.staging ident).isSome then .replace else .add := by
  cases view : s.effectiveView ident
  case tally => exact absurd view h
  all_goals rw [State.writeEffect, view]

theorem State.tallyEffect_live (h : s.effectiveView ident = .blob ∨ s.effectiveView ident = .tally) :
    s.tallyEffect ident = .refuse .wrongKind := by
  obtain h | h := h <;> rw [State.tallyEffect, h]

theorem State.tallyEffect_dead (h : s.effectiveView ident = .absent ∨ s.effectiveView ident = .tombstone) :
    s.tallyEffect ident = if directoryView (s.entryOf ident) = .tally then .refuse .wrongKind
      else if (stagedOn s.txn.staging ident).isSome then .replace else .add := by
  obtain h | h := h <;> rw [State.tallyEffect, h]

theorem State.deleteEffect_dead (h : s.effectiveView ident = .absent ∨ s.effectiveView ident = .tombstone) :
    s.deleteEffect ident = .refuse .notFound := by
  obtain h | h := h <;> rw [State.deleteEffect, h]

theorem State.deleteEffect_unstaged (view : s.effectiveView ident = .blob ∨ s.effectiveView ident = .tally)
    (h : s.unstaged ident) : s.deleteEffect ident = .add := by
  obtain view | view := view <;> simp [State.deleteEffect, view, h.stagedOn]

theorem State.deleteEffect_staged (view : s.effectiveView ident = .blob ∨ s.effectiveView ident = .tally)
    (h : s.stagedAt ident before op after) : s.deleteEffect ident = match directoryView (s.entryOf ident) with
      | .blob => .replace
      | .tally => .replace
      | _ => .remove := by
  obtain view | view := view <;> simp only [State.deleteEffect, view, h.stagedOn] <;> rfl

theorem State.deleteEffect_replaces (view : s.effectiveView ident = .blob ∨ s.effectiveView ident = .tally)
    (h : s.stagedAt ident before op after) (live : s.holdsKind ident 1 ∨ s.holdsKind ident 2) :
    s.deleteEffect ident = .replace := by
  rw [State.holdsKind_blob, State.holdsKind_tally] at live
  rw [State.deleteEffect_staged view h]
  obtain live | live := live <;> rw [live]

theorem State.deleteEffect_removes (view : s.effectiveView ident = .blob ∨ s.effectiveView ident = .tally)
    (h : s.stagedAt ident before op after)
    (dead : directoryView (s.entryOf ident) = .absent ∨ directoryView (s.entryOf ident) = .tombstone) :
    s.deleteEffect ident = .remove := by
  rw [State.deleteEffect_staged view h]
  obtain dead | dead := dead <;> rw [dead]

theorem stagedView_live (h : stagedView op ≠ .tombstone) : stagedView op = .blob ∨ stagedView op = .tally := by
  cases op
  · exact Or.inl rfl
  · exact absurd rfl h
  · exact Or.inr rfl

theorem stagedView_eq_tombstone (h : opIdent op = ident) : stagedView op = .tombstone ↔ op = .delete ident := by
  cases op <;> simp_all [stagedView, opIdent]

theorem directoryView_dead (h : ¬(s.holdsKind ident 1 ∨ s.holdsKind ident 2)) :
    directoryView (s.entryOf ident) = .absent ∨ directoryView (s.entryOf ident) = .tombstone := by
  rw [State.holdsKind_blob, State.holdsKind_tally] at h
  cases view : directoryView (s.entryOf ident) <;> simp_all

end

/-! ### The STAGE requests -/

section
variable {kind : RequestKind} {tag : Byte} {p : List Byte} {number ident : Nat} {op : StagedOp} {effect : StageEffect}

/-- A STAGE request of an accepted transaction has its effect. -/
structure State.Stages (s : State) (kind : RequestKind) (tag : Byte) (p : List Byte) (ident : Nat) (op : StagedOp)
    (effect : StageEffect) : Prop where
  queued : isImmediate kind = false
  executes : s.executesNow kind tag p
  effects : (s.executingNow kind tag p).execute { kind, tag, payload := p }
    = (s.executingNow kind tag p).stageEffect ident op effect

theorem State.Stages.of_execute (queued : isImmediate kind = false) (executes : s.executesNow kind tag p)
    (accepts : s.accepts number) (h : (s.executingNow kind tag p).execute { kind, tag, payload := p }
      = (s.executingNow kind tag p).stage number ident op effect) : s.Stages kind tag p ident op effect := by
  refine ⟨queued, executes, h.trans ?_⟩
  obtain ⟨state, same, store, supply⟩ := accepts
  rw [State.stage_checked (s := s.executingNow kind tag p) executes.2.1]
  have notReadOnly : s.store ≠ .readOnly := by simp [store]
  exact (if_neg (not_not.2 state)).trans ((if_neg (not_not.2 same)).trans ((if_neg notReadOnly).trans (if_neg supply)))

variable (h : s.Stages kind tag p ident op effect)
include h

theorem State.Stages.refused {r : Result} (e : effect = .refuse r) :
    exec (commandOf kind tag p) s = .next (s.replied kind tag p (bare r)) := by
  subst e
  exact exec_replied h.queued h.executes h.effects

theorem State.Stages.added (e : effect = .add) : s.stagesTo kind tag p ident (s.txn.staging ++ [op]) := by
  subst e
  exact State.stagesTo_of_execute h.queued h.executes h.effects

theorem State.Stages.replaced {before after : List StagedOp} {old : StagedOp} (e : effect = .replace)
    (staged : s.stagedAt ident before old after) : s.stagesTo kind tag p ident (before ++ op :: after) := by
  subst e
  rw [← staged.replaced op]
  exact State.stagesTo_of_execute h.queued h.executes h.effects

theorem State.Stages.removed {before after : List StagedOp} {old : StagedOp} (e : effect = .remove)
    (staged : s.stagedAt ident before old after) :
    exec (commandOf kind tag p) s = .next (s.staged kind tag p (before ++ after)) := by
  subst e
  rw [exec_executed h.queued h.executes, ← State.acceptStage_executingNow h.executes, ← staged.removed]
  exact congrArg Host.Outcome.next h.effects

end

section
variable {tag : Byte} {number ident : Nat} (low : 1 ≤ ident) (high : ident ≤ 4094) (first : 1 ≤ number)
  (last : number ≤ 4294967294)
include low high first last

/-- The payload of a STAGE request reads back as composed. -/
theorem readStageCommon_composed (r : List Byte) :
    readStageCommon (beBytes 4 number ++ beBytes 2 ident ++ r) = some (number, ident, r) := by
  have number' : beNat ((beBytes 4 number ++ beBytes 2 ident ++ r).take 4) = number := by
    rw [List.append_assoc]
    exact take4_number last _
  have ident' := drop4_ident (number := number) high r
  rw [readStageCommon_some, number', ident', drop6_rest]
  · simp only [List.length_append, beBytes_length]
    omega
  · rw [number']
    exact ⟨first, last⟩
  · rw [ident']
    exact ⟨low, high⟩

theorem State.stages_write {data : List Byte} (short : data.length ≤ 240)
    (executes : s.executesNow .stageWrite tag (beBytes 4 number ++ beBytes 2 ident ++ data)) (accepts : s.accepts number) :
    s.Stages .stageWrite tag (beBytes 4 number ++ beBytes 2 ident ++ data) ident (.write ident data)
      (s.writeEffect ident) := by
  refine State.Stages.of_execute rfl executes accepts ?_
  change State.takeStageWrite _ _ = _
  rw [State.takeStageWrite, readStageWrite, if_pos, readStageCommon_composed low high first last]
  · rfl
  · simp only [List.length_append, beBytes_length]
    omega

theorem State.stages_tally {initial : Nat} (fits : initial ≤ 4294967295)
    (executes : s.executesNow .stageTally tag (beBytes 4 number ++ beBytes 2 ident ++ beBytes 4 initial))
    (accepts : s.accepts number) :
    s.Stages .stageTally tag (beBytes 4 number ++ beBytes 2 ident ++ beBytes 4 initial) ident (.createTally ident initial)
      (s.tallyEffect ident) := by
  refine State.Stages.of_execute rfl executes accepts ?_
  have value : beNat (beBytes 4 initial) = initial := beNat_beBytes (by omega)
  change State.takeStageTally _ _ = _
  rw [State.takeStageTally, readStageTally, if_pos (by simp [beBytes_length]), readStageCommon_composed low high first last]
  simp only [Option.map_some, value]
  rfl

theorem State.stages_delete (executes : s.executesNow .stageDelete tag (beBytes 4 number ++ beBytes 2 ident))
    (accepts : s.accepts number) :
    s.Stages .stageDelete tag (beBytes 4 number ++ beBytes 2 ident) ident (.delete ident) (s.deleteEffect ident) := by
  refine State.Stages.of_execute rfl executes accepts ?_
  have common := readStageCommon_composed low high first last []
  rw [List.append_nil] at common
  change State.takeStageDelete _ _ = _
  rw [State.takeStageDelete, readStageDelete, if_pos (by simp [beBytes_length]), common]
  rfl

end

/-- Settles O29. -/
theorem stageWriteEffect : Obligations.StageWriteEffect := by
  intro tag number ident data s low high first last short payload executes accepts
  have stages := State.stages_write low high first last short executes accepts
  refine ⟨fun unstaged tally => ?overTally, fun unstaged other => ?added, fun before op after staged =>
    ⟨fun ⟨initial, isTally⟩ => ?overStaged, fun replaceable => ?replaced⟩⟩
  case overTally =>
    exact stages.refused (State.writeEffect_tally (unstaged.effectiveView.trans (State.holdsKind_tally.1 tally)))
  case added =>
    refine stages.added ((State.writeEffect_other ?_).trans (by rw [unstaged.stagedOn]; rfl))
    rw [unstaged.effectiveView]
    exact fun view => other (State.holdsKind_tally.2 view)
  case overStaged =>
    exact stages.refused (State.writeEffect_tally (staged.effectiveView.trans (by rw [isTally]; rfl)))
  case replaced =>
    refine stages.replaced ((State.writeEffect_other ?_).trans (by rw [staged.stagedOn]; rfl)) staged
    rw [staged.effectiveView]
    obtain ⟨old, rfl⟩ | rfl := replaceable <;> exact View.noConfusion

/-- Settles O30. -/
theorem stageTallyEffect : Obligations.StageTallyEffect := by
  intro tag number ident initial s low high first last fits payload executes accepts
  have stages := State.stages_tally low high first last fits executes accepts
  refine ⟨fun unstaged live => ?overLive, fun unstaged noBlob noTally => ?added, fun before op after staged =>
    ⟨fun wrong => ?wrong, fun isDelete noTally => ?replaced⟩⟩
  case overLive =>
    refine stages.refused (State.tallyEffect_live ?_)
    rw [unstaged.effectiveView]
    exact live.imp State.holdsKind_blob.1 State.holdsKind_tally.1
  case added =>
    refine stages.added ((State.tallyEffect_dead ?_).trans ?_)
    · rw [unstaged.effectiveView]
      exact directoryView_dead (not_or.2 ⟨noBlob, noTally⟩)
    · rw [if_neg fun view => noTally (State.holdsKind_tally.2 view), unstaged.stagedOn]
      rfl
  case wrong =>
    by_cases tombstone : stagedView op = .tombstone
    · have tally : s.holdsKind ident 2 :=
        wrong.resolve_left fun other => other ((stagedView_eq_tombstone staged.2.1).1 tombstone)
      exact stages.refused ((State.tallyEffect_dead (Or.inr (staged.effectiveView.trans tombstone))).trans
        (if_pos (State.holdsKind_tally.1 tally)))
    · refine stages.refused (State.tallyEffect_live ?_)
      rw [staged.effectiveView]
      exact stagedView_live tombstone
  case replaced =>
    refine stages.replaced ((State.tallyEffect_dead (Or.inr ?_)).trans ?_) staged
    · rw [staged.effectiveView, isDelete]
      rfl
    · rw [if_neg fun view => noTally (State.holdsKind_tally.2 view), staged.stagedOn]
      rfl

/-- Settles O31. -/
theorem stageDeleteEffect : Obligations.StageDeleteEffect := by
  intro tag number ident s low high first last payload executes accepts
  have stages := State.stages_delete low high first last executes accepts
  refine ⟨fun unstaged dead => ?nothingThere, fun unstaged live => ?added, fun before op after staged =>
    ⟨fun isDelete => ?deletedAlready, fun other live => ?replaced, fun other dead => ?removed⟩⟩
  case nothingThere =>
    refine stages.refused (State.deleteEffect_dead ?_)
    rw [unstaged.effectiveView]
    exact directoryView_dead dead
  case added =>
    refine stages.added (State.deleteEffect_unstaged ?_ unstaged)
    rw [unstaged.effectiveView]
    exact live.imp State.holdsKind_blob.1 State.holdsKind_tally.1
  case deletedAlready =>
    refine stages.refused (State.deleteEffect_dead (Or.inr ?_))
    rw [staged.effectiveView, isDelete]
    rfl
  all_goals have view : s.effectiveView ident = .blob ∨ s.effectiveView ident = .tally := (by
    rw [staged.effectiveView]
    exact stagedView_live fun tombstone => other ((stagedView_eq_tombstone staged.2.1).1 tombstone))
  case replaced => exact stages.replaced (State.deleteEffect_replaces view staged live) staged
  case removed => exact stages.removed (State.deleteEffect_removes view staged (directoryView_dead dead)) staged

/-! ### The idle timer -/

/-- Settles O32. -/
theorem idleTimerExpires : Obligations.IdleTimerExpires := by
  intro number s
  refine ⟨fun running state idle same => ?expires, fun stopped => ?stopped⟩
  case expires =>
    have branch : exec .idleTimerExpiry s = .next (s.endTxn.raise (.txnExpired (s.txn.number.getD 0))) :=
      congrArg Host.Outcome.next (if_pos ⟨by simp [running], idle, state⟩)
    rw [branch, same]
    rfl
  case stopped => exact congrArg Host.Outcome.next (if_neg (by simp [stopped]))

end Sys2Proof.Machine
end

section
/-! Undisturbed: what notices and the engine's control (R102 to R120, R91 to R95) leave as it is, one lemma per operation.
An event that has only called them has given the executor nothing to take. -/

namespace Sys2Proof.Machine

/-- The parts of a state that the notice unit and the engine's control leave alone, as they were in s₀; of the store state
that it is not left or entered MOUNTING or FORMATTING. -/
structure UndisturbedParts (s₀ : State) (queue : List Request) (executing : Option Request) (txn : Txn)
    (directory : List DirEntry) (cells : Memory) (store : StoreState) (supply : Supply) (restarting : Option Restarting) :
    Prop where
  queue : queue = s₀.link.queue
  executing : executing = s₀.executor.executing
  txn : txn = s₀.txn
  directory : directory = s₀.directory
  cells : cells = s₀.array.cells
  store : store = s₀.store ∨ ((s₀.store = .ready ∨ s₀.store = .readOnly) ∧ (store = .ready ∨ store = .readOnly))
  supply : supply = s₀.supply
  restarting : restarting = s₀.restarting

/-- s has these parts as s₀ has them. -/
def Undisturbed (s₀ s : State) : Prop :=
  UndisturbedParts s₀ s.link.queue s.executor.executing s.txn s.directory s.array.cells s.store s.supply s.restarting

@[simp] theorem undisturbed_parts {s₀ s : State} :
    UndisturbedParts s₀ s.link.queue s.executor.executing s.txn s.directory s.array.cells s.store s.supply s.restarting
      ↔ Undisturbed s₀ s := Iff.rfl

@[simp] theorem undisturbed_mk {s₀ : State} {q l e x d c a k st m n sup r f} :
    Undisturbed s₀ (State.mk q l e x d c a k st m n sup r f)
      ↔ UndisturbedParts s₀ l.queue e.executing x d a.cells st sup r := Iff.rfl

@[simp] theorem Undisturbed.refl (s : State) : Undisturbed s s := ⟨rfl, rfl, rfl, rfl, rfl, .inl rfl, rfl, rfl⟩

variable {s₀ s : State}

/-- An executor that had nothing to take has nothing to take still. -/
theorem Undisturbed.nothingToTake (h : Undisturbed s₀ s) (nothing : s₀.nothingToTake) : s.nothingToTake := by
  rcases nothing with busy | mounting | formatting | empty
  · exact .inl (by rwa [h.executing])
  · have := h.store
    exact .inr (.inl (by simp_all))
  · have := h.store
    exact .inr (.inr (.inl (by simp_all)))
  · exact .inr (.inr (.inr (by rwa [h.queue])))

theorem Undisturbed.runExecutor (h : Undisturbed s₀ s) (nothing : s₀.nothingToTake) : s.runExecutor = s :=
  State.runExecutor_nothing (h.nothingToTake nothing)

section
variable (h : Undisturbed s₀ s)
include h

@[simp] theorem Undisturbed.setPage (p : PageIx) (r : PageRec) : Undisturbed s₀ (s.setPage p r) := h

@[simp] theorem Undisturbed.request (who : Requester) (op : Option RequestOp) : Undisturbed s₀ (s.request who op) := by
  cases who <;> exact h

@[simp] theorem Undisturbed.start (who : Requester) (op : ArrayOp) : Undisturbed s₀ (s.start who op) := h

@[simp] theorem Undisturbed.startCell (who : Requester) (r : Run) : Undisturbed s₀ (s.startCell who r) := h

@[simp] theorem Undisturbed.setCommit (c : Option CommitRecord) : Undisturbed s₀ (s.setCommit c) := h

@[simp] theorem Undisturbed.disown (who : Requester) : Undisturbed s₀ (s.disown who) := by
  unfold State.disown
  split
  · split <;> exact h
  · exact h

@[simp] theorem Undisturbed.sealOpenPage : Undisturbed s₀ s.sealOpenPage := by
  unfold State.sealOpenPage
  split <;> exact h

@[simp] theorem Undisturbed.faultRunIfAny (r : Option Run) : Undisturbed s₀ (s.faultRunIfAny r) := by
  cases r <;> exact h

@[simp] theorem Undisturbed.sendNotice (f : Frame) : Undisturbed s₀ (s.sendNotice f) := by
  unfold State.sendNotice
  split <;> exact h

@[simp] theorem Undisturbed.raise (content : NoticeContent) : Undisturbed s₀ (s.raise content) := by
  unfold State.raise
  split
  · exact h
  · refine Undisturbed.sendNotice (s := State.dropUnsent { s with notices := _ } _) ?_ _
    exact h

@[simp] theorem Undisturbed.clearDemands : Undisturbed s₀ s.clearDemands := h

@[simp] theorem Undisturbed.endWaits : Undisturbed s₀ s.endWaits := h

@[simp] theorem Undisturbed.endRun : Undisturbed s₀ s.endRun := by
  unfold State.endRun
  dsimp only
  split
  · refine Undisturbed.raise ?_ _
    exact h
  · exact h

@[simp] theorem Undisturbed.takeVictim (p : PageIx) : Undisturbed s₀ (s.takeVictim p) := h

@[simp] theorem Undisturbed.choose : Undisturbed s₀ s.choose := by
  unfold State.choose
  split
  · exact h
  · split
    · exact h
    · dsimp only
      split
      · exact (h.clearDemands.raise _).endRun
      · exact h.clearDemands.endRun

@[simp] theorem Undisturbed.clearingTest : Undisturbed s₀ s.clearingTest := by
  unfold State.clearingTest
  split <;> exact h

@[simp] theorem Undisturbed.select : Undisturbed s₀ s.select := by
  unfold State.select
  dsimp only
  split
  · split
    · exact h.clearingTest.choose
    · exact h.clearingTest
    · exact h.clearingTest
  · exact h.clearingTest.endRun

@[simp] theorem Undisturbed.enterSelect : Undisturbed s₀ s.enterSelect :=
  Undisturbed.select (s := State.request _ .compaction none) h

@[simp] theorem Undisturbed.beginRun : Undisturbed s₀ s.beginRun := by
  unfold State.beginRun
  split <;> simp [h]

@[simp] theorem Undisturbed.setDemand : Undisturbed s₀ s.setDemand :=
  Undisturbed.beginRun (s := { s with compaction := _ }) h

@[simp] theorem Undisturbed.leaveVictim : Undisturbed s₀ s.leaveVictim := by
  unfold State.leaveVictim
  dsimp only
  split
  · exact Undisturbed.faultRunIfAny (s := s.setPage _ _) h _
  · exact h.faultRunIfAny _

@[simp] theorem Undisturbed.closeWalk : Undisturbed s₀ s.closeWalk := h.endWaits.clearDemands.endRun

@[simp] theorem Undisturbed.abandonWalk : Undisturbed s₀ s.abandonWalk := h.leaveVictim.closeWalk

@[simp] theorem Undisturbed.exhaustWalk (failed : PageIx) : Undisturbed s₀ (s.exhaustWalk failed) :=
  (h.leaveVictim.sealOpenPage.raise _).closeWalk

@[simp] theorem Undisturbed.starveWalk : Undisturbed s₀ s.starveWalk := (h.leaveVictim.raise _).closeWalk

@[simp] theorem Undisturbed.stopEngine : Undisturbed s₀ s.stopEngine := by
  unfold State.stopEngine
  split
  · exact h
  · exact (h.disown _).clearDemands.endRun
  · split
    · exact h
    · exact h.abandonWalk
  · exact h
  · exact h

@[simp] theorem Undisturbed.markReadOnly : Undisturbed s₀ s.markReadOnly := by
  unfold State.markReadOnly
  split
  · next ready => exact ⟨h.queue, h.executing, h.txn, h.directory, h.cells, .inr ⟨by
      rcases h.store with same | mounted
      · exact .inl (same.symm.trans ready)
      · exact mounted.1, .inr rfl⟩, h.supply, h.restarting⟩
  all_goals exact h

@[simp] theorem Undisturbed.becomeReadOnly : Undisturbed s₀ s.becomeReadOnly := by
  unfold State.becomeReadOnly
  split <;> simp [h]

@[simp] theorem Undisturbed.spendSequence (n : Nat) : Undisturbed s₀ (s.spendSequence n) := by
  unfold State.spendSequence
  split
  · exact h
  · exact Undisturbed.becomeReadOnly (s := { s with array := _ }) h

@[simp] theorem Undisturbed.lowWater : Undisturbed s₀ s.lowWater := by
  unfold State.lowWater
  split <;> simp [h]

@[simp] theorem Undisturbed.openFor (who : Requester) (p : PageIx) (n : Nat) : Undisturbed s₀ (s.openFor who p n) :=
  h.sealOpenPage

@[simp] theorem Undisturbed.switchTo (who : Requester) (p : PageIx) (n : Nat) : Undisturbed s₀ (s.switchTo who p n) :=
  ((h.openFor who p n).spendSequence n).lowWater

theorem Undisturbed.pageSwitch {who : Requester} {t : State} (made : s.pageSwitch who = some t) : Undisturbed s₀ t := by
  unfold State.pageSwitch at made
  split at made
  · cases made
    exact h.switchTo _ _ _
  · cases made

end

end Sys2Proof.Machine
end

section
/-! Admission (R44 to R48, R68, R70, R106): COMMIT, INCREMENT and COMPACT as the executor takes them, and a commit or an
increment whose wait for a victim has ended. -/

namespace Sys2Proof.Machine

variable {s : State}

/-! ### COMMIT -/

/-- The commit record of a COMMIT that has passed its checks stands, and admission follows or the wait for a victim. -/
def State.committing (s : State) : State :=
  State.setCommit { s with txn := { s.txn with state := .committing, idleRunning := false } }
    (some (CommitRecord.fresh s.txn.staging.length))

theorem State.beginCommit_eq : s.beginCommit
    = if s.mustWait then s.committing else s.committing.admitCommit (CommitRecord.fresh s.txn.staging.length) := rfl

theorem State.takeCommit_accepted {payload : List Byte} (valid : payloadValid .commit payload)
    (accepts : s.accepts (beNat payload)) : s.takeCommit payload = s.beginCommit := by
  obtain ⟨state, same, store, supply⟩ := accepts
  have notReadOnly : s.store ≠ .readOnly := by simp [store]
  rw [State.takeCommit, readNumber_some valid]
  exact (if_neg (not_not.2 state)).trans ((if_neg (not_not.2 same)).trans ((if_neg notReadOnly).trans (if_neg supply)))

theorem isEmpty_iff_nil (ops : List StagedOp) : ops.isEmpty = true ↔ ops = [] := List.isEmpty_iff

/-- Settles O33: the wait, the two admissions, and the refusals with the demand they set. -/
theorem commitAdmission : Obligations.CommitAdmission := by
  intro tag payload s valid executes accepts ops room space began refused waits
  let t : State := s.executingNow .commit tag payload
  have outcome : exec (.commit tag payload) s = .next t.beginCommit :=
    (exec_executed (kind := .commit) rfl executes).trans
      (congrArg Host.Outcome.next (State.takeCommit_accepted (s := t) valid accepts))
  have waiting : t.mustWait = true ↔ waits := t.mustWait_iff
  have begins (h : ¬waits) : t.beginCommit = t.committing.admitCommit (CommitRecord.fresh ops.length) :=
    if_neg (mt waiting.1 h)
  have places : t.committing.txRoom = true := State.answersNow.txRoom executes.1
  have refuses (r : Result) : t.committing.refuseCommit r = refused (resultCode r) := by
    have reopened : ({ s.txn with state := .opened, idleRunning := true } : Txn) = { s.txn with idleRunning := true } := by
      rw [← accepts.1]
    have free : s.executor.executing = none := executes.2.2.1
    rw [State.refuseCommit_room (r := { kind := .commit, tag, payload }) rfl places]
    refine Eq.trans ?_ (State.answered_taken (s := { s with
      txn := { s.txn with idleRunning := true }
      executor := { s.executor with commit := none }
      array := { s.array with executorRequest := none } }) (r := { kind := .commit, tag, payload }) free (bare r))
    rw [← reopened]
    rfl
  rw [outcome]
  refine ⟨fun h => ?waits, fun h enough free => ?admitted, fun h full => ?directoryFull, fun h enough full => ?storeFull⟩
  case waits => exact congrArg Host.Outcome.next (if_pos (waiting.2 h))
  case admitted =>
    rw [begins h, State.admitCommit_admitted (s := t.committing) enough free,
      if_congr (isEmpty_iff_nil t.committing.txn.staging) rfl rfl]
    rfl
  case directoryFull =>
    rw [begins h, State.admitCommit_noRoom (s := t.committing) full, refuses]
    exact setDemand_demands _
  case storeFull =>
    rw [begins h, State.admitCommit_noSpace (s := t.committing) enough full, refuses]
    exact setDemand_demands _

/-! ### INCREMENT -/

section
variable {payload : List Byte} {ident delta : Nat} (valid : readIncrement payload = some (ident, delta))
include valid

theorem State.takeIncrement_readOnly (store : s.store ≠ .ready) : s.takeIncrement payload = s.reply (bare .readOnly) := by
  rw [State.takeIncrement, valid]
  exact if_pos store

variable (store : s.store = .ready)
include store

theorem State.takeIncrement_supplyLow (supply : s.supply.state = .cautionLong) :
    s.takeIncrement payload = s.reply (bare .supplyLow) := by
  rw [State.takeIncrement, valid]
  exact (if_neg (not_not.2 store)).trans (if_pos supply)

variable (supply : s.supply.state ≠ .cautionLong)
include supply

theorem State.takeIncrement_absent (absent : s.entryOf ident = none) :
    s.takeIncrement payload = s.reply (bare .notFound) := by
  rw [State.takeIncrement, valid]
  refine (if_neg (not_not.2 store)).trans ((if_neg supply).trans ?_)
  rw [absent]

variable {e : DirEntry} (found : s.entryOf ident = some e)
include found

theorem State.takeIncrement_tombstone (body : e.body = .tombstone) :
    s.takeIncrement payload = s.reply (bare .notFound) := by
  rw [State.takeIncrement, valid]
  refine (if_neg (not_not.2 store)).trans ((if_neg supply).trans ?_)
  rw [found]
  dsimp only
  rw [body]

theorem State.takeIncrement_blob {length : Nat} (body : e.body = .blob length) :
    s.takeIncrement payload = s.reply (bare .wrongKind) := by
  rw [State.takeIncrement, valid]
  refine (if_neg (not_not.2 store)).trans ((if_neg supply).trans ?_)
  rw [found]
  dsimp only
  rw [body]

theorem State.takeIncrement_tally {value : Nat} {bumps : List BumpLoc} (body : e.body = .tally value bumps) :
    s.takeIncrement payload =
      if value = 4294967295 then s.reply ([0x50] ++ beBytes 4 value ++ beBytes 4 e.gen)
      else if 32 ≤ bumps.length ∧ 4294967293 < e.gen then s.reply ([0x51] ++ beBytes 4 value ++ beBytes 4 e.gen)
      else s.beginIncrement ident delta (if 32 ≤ bumps.length then 2 else 1) := by
  rw [State.takeIncrement, valid]
  refine (if_neg (not_not.2 store)).trans ((if_neg supply).trans ?_)
  rw [found]
  dsimp only
  rw [body]
  rfl

end

/-- The record of an increment that has passed its checks. -/
def IncrementRecord.fresh (ident delta need : Nat) : IncrementRecord :=
  { ident, delta, need, waiting := true, waitOver := false, composed := none, failures := 0, run := none }

theorem State.beginIncrement_eq (ident delta need : Nat) : s.beginIncrement ident delta need =
    if s.mustWait then s.setIncrement (some (.fresh ident delta need))
    else (s.setIncrement (some (.fresh ident delta need))).admitIncrement (.fresh ident delta need) := rfl

/-- Settles O34: the checks in order, then the wait, the admission or the refusal with the demand it sets. -/
theorem incrementChecksAndAdmission : Obligations.IncrementChecksAndAdmission := by
  intro tag payload s valid executes ident outcome answered
  let t : State := s.executingNow .increment tag payload
  have reads : readIncrement payload = some (ident, beNat (payload.drop 2)) := readIncrement_some valid
  have replied {reply : List Byte} (branch : t.takeIncrement payload = t.reply reply) : answered reply :=
    exec_replied (kind := .increment) rfl executes branch
  refine ⟨fun store => ?readOnly, fun store supply => ?supplyLow, fun store supply => ⟨fun absent => ?absent, fun e found =>
    ⟨fun body => ?tombstone, fun length body => ?blob, fun value bumps body => ?tally⟩⟩⟩
  case readOnly => exact replied (State.takeIncrement_readOnly reads (by rw [show t.store = .readOnly from store]; decide))
  case supplyLow => exact replied (State.takeIncrement_supplyLow reads store supply)
  case absent => exact replied (State.takeIncrement_absent reads store supply absent)
  case tombstone => exact replied (State.takeIncrement_tombstone reads store supply found body)
  case blob => exact replied (State.takeIncrement_blob reads store supply found body)
  case tally =>
    have taken := State.takeIncrement_tally (s := t) reads store supply found body
    refine ⟨fun saturated => replied (taken.trans (if_pos saturated)), fun room full last => ?limit, fun room passes => ?passes⟩
    case limit => exact replied (taken.trans ((if_neg room).trans (if_pos ⟨full, by omega⟩)))
    case passes =>
      intro need waits space began
      have waiting : t.mustWait = true ↔ waits := t.mustWait_iff
      have begun : outcome = .next (t.beginIncrement ident (beNat (payload.drop 2)) need) := by
        refine (exec_executed (kind := .increment) rfl executes).trans (congrArg Host.Outcome.next ?_)
        exact taken.trans ((if_neg room).trans (if_neg (by omega)))
      let i : IncrementRecord := .fresh ident (beNat (payload.drop 2)) need
      have admits (h : ¬waits) :
          t.beginIncrement ident (beNat (payload.drop 2)) need = (t.setIncrement (some i)).admitIncrement i :=
        if_neg (mt waiting.1 h)
      rw [begun]
      refine ⟨fun h => congrArg Host.Outcome.next (if_pos (waiting.2 h)), fun h free => ?admitted, fun h full => ?refused⟩
      case admitted =>
        rw [admits h, State.admitIncrement_admitted (s := t.setIncrement (some i)) (i := i) free]
        rfl
      case refused =>
        have places : (t.setIncrement (some i)).txRoom = true := State.answersNow.txRoom executes.1
        have ended : (t.setIncrement (some i)).failIncrement i .storeFull = State.replied { s with
            executor := { s.executor with increment := none }
            array := { s.array with executorRequest := none } } .increment tag payload (bare .storeFull) :=
          (State.failIncrement_room (r := { kind := .increment, tag, payload }) rfl places rfl .storeFull).trans
            (State.answered_taken (s := { s with
              executor := { s.executor with increment := none }
              array := { s.array with executorRequest := none } }) (r := { kind := .increment, tag, payload })
              executes.2.2.1 (bare .storeFull))
        rw [admits h, State.admitIncrement_noSpace (s := t.setIncrement (some i)) (i := i) full, ended]
        exact setDemand_demands _

/-! ### The end of a wait -/

section
variable (running : s.restarting = none)
include running

theorem exec_commitWaitEnd {c : CommitRecord} (commit : s.executor.commit = some c) (stage : c.stage = .waiting)
    (state : s.txn.state = .committing) : exec .commitWaitEnd s
      = .next (if c.waitOver = true then (s.resumeCommit c).runExecutor else s) := by
  change execCommitWaitEnd s = _
  simp [execCommitWaitEnd, commit, running, stage, state]

theorem exec_incrementWaitEnd {i : IncrementRecord} (increment : s.executor.increment = some i) (waiting : i.waiting = true) :
    exec .incrementWaitEnd s = .next (if i.waitOver = true then (s.resumeIncrement i).runExecutor else s) := by
  change execIncrementWaitEnd s = _
  simp [execIncrementWaitEnd, increment, running, waiting]

end

variable {r : Request}

/-- A reply of the executor with a place free and no request waiting ends the event, also where the demand is set then. -/
theorem State.finishes.runExecutor (h : s.finishes r) {t : State} (left : Undisturbed s t) : t.runExecutor = t :=
  left.runExecutor (State.nothingToTake_queue h.2.2.1)

/-- Settles O35: each wait that is over is admitted, refused, or answered READ_ONLY. -/
theorem admissionAfterTheWait : Obligations.AdmissionAfterTheWait := by
  intro r s running executing
  have busy {t : State} (still : t.executor.executing = some r) : t.runExecutor = t :=
    State.runExecutor_nothing (.inl (by simp [still]))
  refine ⟨?commit, ?increment⟩
  case commit =>
    intro c commit stage state room space refused
    have ended (isOver : c.waitOver = true) : exec .commitWaitEnd s = .next (s.resumeCommit c).runExecutor :=
      (exec_commitWaitEnd running commit stage state).trans (congrArg Host.Outcome.next (if_pos isOver))
    have ready (h : s.store = .ready) : s.resumeCommit c = s.admitCommit c := if_neg (by simp [h])
    have refuses (h : s.finishes r) (x : Result) : s.refuseCommit x = refused (resultCode x) :=
      State.refuseCommit_room executing h.txRoom x
    have empty (h : s.finishes r) (b : Byte) : (refused b).nothingToTake := State.nothingToTake_queue h.2.2.1
    refine ⟨fun waits => ?_, fun isOver store fits free => ?_, fun isOver finishes =>
      ⟨fun store => ?_, fun store full => ?_, fun store fits full => ?_⟩⟩
    · rw [exec_commitWaitEnd running commit stage state, waits]
      rfl
    · rw [ended isOver, ready store, State.admitCommit_admitted fits free]
      refine (congrArg Host.Outcome.next (busy ?_)).trans ?_
      · exact executing
      · rw [if_congr (isEmpty_iff_nil s.txn.staging) rfl rfl]
        rfl
    · have only : s.resumeCommit c = refused 0x06 := (if_pos store).trans (refuses finishes .readOnly)
      rw [ended isOver, only, State.runExecutor_nothing (empty finishes 0x06)]
    · rw [ended isOver, ready store, State.admitCommit_noRoom full, refuses finishes,
        (Undisturbed.refl _).setDemand.runExecutor (empty finishes _)]
      exact setDemand_demands _
    · rw [ended isOver, ready store, State.admitCommit_noSpace fits full, refuses finishes,
        (Undisturbed.refl _).setDemand.runExecutor (empty finishes _)]
      exact setDemand_demands _
  case increment =>
    intro i increment waiting noRun refused
    have ended (isOver : i.waitOver = true) : exec .incrementWaitEnd s = .next (s.resumeIncrement i).runExecutor :=
      (exec_incrementWaitEnd running increment waiting).trans (congrArg Host.Outcome.next (if_pos isOver))
    have ready (h : s.store = .ready) : s.resumeIncrement i = s.admitIncrement i := if_neg (by simp [h])
    have fails (h : s.finishes r) (x : Result) : s.failIncrement i x = refused (resultCode x) :=
      State.failIncrement_room executing h.txRoom noRun x
    have empty (h : s.finishes r) (b : Byte) : (refused b).nothingToTake := State.nothingToTake_queue h.2.2.1
    refine ⟨fun waits => ?_, fun isOver store free => ?_, fun isOver finishes => ⟨fun store => ?_, fun store full => ?_⟩⟩
    · rw [exec_incrementWaitEnd running increment waiting, waits]
      rfl
    · rw [ended isOver, ready store, State.admitIncrement_admitted free]
      exact congrArg Host.Outcome.next (busy executing)
    · have only : s.resumeIncrement i = refused 0x06 := (if_pos store).trans (fails finishes .readOnly)
      rw [ended isOver, only, State.runExecutor_nothing (empty finishes 0x06)]
    · rw [ended isOver, ready store, State.admitIncrement_noSpace (Nat.not_le.2 full), fails finishes,
        (Undisturbed.refl _).setDemand.runExecutor (empty finishes _)]
      exact setDemand_demands _

/-! ### COMPACT -/

theorem State.takeCompact_valid {payload : List Byte} (valid : payloadValid .compact payload) :
    s.takeCompact payload =
      if s.store = .readOnly then s.reply (bare .readOnly)
      else if s.supply.state = .cautionLong then s.reply (bare .supplyLow)
      else (State.reply { s with compaction := { s.compaction with
          hostDemand := min 8 (s.compaction.hostDemand + beNat payload) } }
        ([0x00] ++ beBytes 1 (min 8 (s.compaction.hostDemand + beNat payload)))).beginRun := by
  rw [State.takeCompact, readVictims_some valid]
  rfl

/-- The engine in IDLE with a host demand and the store READY begins a run (R106). -/
theorem State.beginRun_idle (idle : s.compaction.phase = .idle) (store : s.store = .ready) (demand : 0 < s.compaction.hostDemand) :
    s.beginRun = s.enterSelect :=
  if_pos ⟨idle, store, by simp [State.demanded, demand]⟩

/-- Settles O36: the refusals, the demand that joins a run in progress, and the run that begins. -/
theorem compactAddsDemand : Obligations.CompactAddsDemand := by
  intro tag payload s valid executes outcome demand
  let t : State := s.executingNow .compact tag payload
  have taken := State.takeCompact_valid (s := t) valid
  have replied {reply : List Byte} (branch : t.takeCompact payload = t.reply reply) :
      outcome = .next (s.replied .compact tag payload reply) := exec_replied (kind := .compact) rfl executes branch
  let u : State := State.replied { s with compaction := { s.compaction with hostDemand := demand } } .compact tag payload
    ([0x00] ++ beBytes 1 demand)
  have demanded (store : s.store = .ready) (supply : s.supply.state ≠ .cautionLong) : outcome = .next u.beginRun := by
    refine (exec_executed (kind := .compact) rfl executes).trans (congrArg Host.Outcome.next ?_)
    refine taken.trans ((if_neg (by simp [t, State.executingNow, store])).trans ((if_neg supply).trans ?_))
    exact congrArg State.beginRun (State.reply_executingNow (s := { s with compaction := { s.compaction with
      hostDemand := demand } }) executes _)
  refine ⟨fun store => replied (taken.trans (if_pos store)), fun store supply => ?_, fun store supply running => ?_,
    fun store supply idle => ?_⟩
  · exact replied (taken.trans ((if_neg (by simp [t, State.executingNow, store])).trans (if_pos supply)))
  · rw [demanded store supply]
    exact congrArg Host.Outcome.next (if_neg fun h => running h.1)
  · obtain ⟨one, eight⟩ : 1 ≤ beNat payload ∧ beNat payload ≤ 8 := valid.2
    have whole : demand = beNat payload := by
      simp only [demand, idle, Compaction.idle]
      omega
    have begins : u.beginRun = u.enterSelect := State.beginRun_idle (by simp [u, State.replied, idle, Compaction.idle]) store
      (show 0 < demand by omega)
    rw [demanded store supply, begins]
    have selects := enterSelect_selects u
    have engine : u.compaction = { Compaction.idle with hostDemand := beNat payload } := by
      simp only [u, State.replied, idle, whole]
    rw [engine] at selects
    refine (selects_withEngine _ { Compaction.idle with hostDemand := beNat payload } s.array.compactionRequest _ _ _ _ _).1 ?_
    have same : (s.replied .compact tag payload ([0x00] ++ beBytes 1 (beNat payload))).withEngine
        { Compaction.idle with hostDemand := beNat payload } s.array.compactionRequest = u := by
      simp only [u, whole, idle]
      rfl
    rw [same]
    exact selects

end Sys2Proof.Machine
end

section
/-! Supply and restart (R164, R173 to R180): the supervisor's events, the restart causes, RESET_N, and the event in which a
restart proceeds. -/

namespace Sys2Proof.Machine

variable {s : State}

/-! ### SUPPLY notices -/

theorem State.askSupply_raised (mounted : s.store ≠ .mounting) (event : SupplyEvent) :
    s.askSupply event = s.raise (.supply event) := by
  unfold State.askSupply
  cases h : s.store with
  | mounting => exact absurd h mounted
  | formatting => rfl
  | ready => rfl
  | readOnly => rfl

theorem State.askSupply_deferred (mounting : s.store = .mounting) (event : SupplyEvent) :
    s.askSupply event = { s with notices := { s.notices with deferred := decide (event = .cautionLongBegin) } } := by
  unfold State.askSupply
  rw [mounting]
  cases event <;> rfl

/-! ### A commit and an increment that the caution timer ends -/

/-- The array as the early end of the executor's work leaves it: no request, and a run in programming faulted (R89). -/
def ArrayState.released (a : ArrayState) (run : Option Run) : ArrayState :=
  { a with
    executorRequest := none
    faulted := a.faulted ++ run.toList.map (fun x => { page := x.page, first := x.first, count := x.words.length })
    table := match run with
      | none => a.table
      | some x => a.table.set x.page
        { a.table.get x.page with used := max (a.table.get x.page).used (x.first + x.words.length) } }

/-- A run that ends early with the executor's request withdrawn. -/
theorem State.faultRunIfAny_request (s : State) (run : Option Run) :
    (s.faultRunIfAny run).request .executor none = { s with array := s.array.released run } := by
  cases run with
  | none =>
    unfold ArrayState.released
    simp only [Option.toList_none, List.map_nil, List.append_nil]
    rfl
  | some x => rfl

theorem State.faultRunIfAny_eq (s : State) (run : Option Run) :
    s.faultRunIfAny run = { s with array := (s.faultRunIfAny run).array } := by
  cases run <;> rfl

section
variable {r : Request} (executing : s.executor.executing = some r) (room : s.txRoom = true)
include executing room

theorem State.failCommit_room (c : CommitRecord) (x : Result) : s.failCommit c x = State.answered { s with
    txn := { s.txn with state := .none, number := none, idleRunning := false, staging := [] }
    executor := { s.executor with commit := none }
    array := s.array.released c.run } r (bare x) := by
  let t : State := { s with
    txn := { s.txn with state := .none, number := none, idleRunning := false, staging := [] }
    executor := { s.executor with commit := none }
    array := s.array.released c.run }
  have left : ((s.faultRunIfAny c.run).dropCommit).endTxn = t := by
    have array := congrArg State.array (State.faultRunIfAny_request s c.run)
    rw [State.faultRunIfAny_eq]
    exact congrArg (fun a => ({ t with array := a } : State)) array
  rw [State.failCommit, left]
  exact State.reply_room (s := t) executing room _

theorem State.failIncrement_released (i : IncrementRecord) (x : Result) : s.failIncrement i x = State.answered { s with
    executor := { s.executor with increment := none }
    array := s.array.released i.run } r (bare x) := by
  let t : State := { s with executor := { s.executor with increment := none }, array := s.array.released i.run }
  have left : (s.faultRunIfAny i.run).dropIncrement = t := by
    have array := congrArg State.array (State.faultRunIfAny_request s i.run)
    rw [State.faultRunIfAny_eq]
    exact congrArg (fun a => ({ t with array := a } : State)) array
  rw [State.failIncrement, left]
  exact State.reply_room (s := t) executing room _

end

theorem State.disown_still (still : s.array.inFlight = none) (who : Requester) : s.disown who = s := by
  rw [State.disown, still]

/-- A commit past its marker's grant, or one whose transaction has ended, goes on through the caution timer's expiry. -/
theorem State.cautionCommit_kept (kept : ∀ c, s.executor.commit = some c → s.txn.state ≠ .committing ∨ c.markerGranted = true) :
    s.cautionCommit = s := by
  unfold State.cautionCommit
  split
  · rfl
  · next c commit =>
    refine if_neg ?_
    rcases kept c commit with state | granted
    · simp [state]
    · simp [granted]

theorem State.cautionIncrement_none (noIncrement : s.executor.increment = none) : s.cautionIncrement = s := by
  rw [State.cautionIncrement, noIncrement]

/-- s in CAUTION_LONG, the caution timer stopped. -/
def State.supplyLong (s : State) : State :=
  { s with supply := { s.supply with state := .cautionLong, cautionRunning := false } }

theorem exec_cautionTimerExpiry (running : s.restarting = none) (timer : s.supply.cautionRunning = true) :
    exec .cautionTimerExpiry s
      = .next (((s.supplyLong.askSupply .cautionLongBegin).cautionCommit).cautionIncrement).runExecutor := by
  change execCautionTimerExpiry s = _
  simp [execCautionTimerExpiry, timer, running, State.cautionExpires, State.supplyLong]

theorem exec_recoveryTimerExpiry (running : s.restarting = none) (timer : s.supply.recoveryRunning = true) :
    exec .recoveryTimerExpiry s = .next s.supplyRecovers := by
  change execRecoveryTimerExpiry s = _
  simp [execRecoveryTimerExpiry, timer, running]

theorem State.flying_iff (who : Requester) :
    s.flying who = true ↔ ∃ flight, s.array.inFlight = some flight ∧ flight.owner = some who := by
  simp [State.flying, Option.any_eq_true]

theorem State.resumeSelect_kept (h : s.compaction.phase ≠ .select ∨ s.flying .compaction = true) : s.resumeSelect = s := by
  refine if_neg ?_
  rcases h with phase | flying
  · simp [phase]
  · simp [flying]

theorem State.resumeSelect_selects (phase : s.compaction.phase = .select) (still : ¬s.flying .compaction = true) :
    s.resumeSelect = s.enterSelect :=
  if_pos ⟨phase, by simpa using still⟩

/-- s with the supply NORMAL again and both timers stopped. -/
def State.supplyNormal (s : State) : State :=
  { s with supply := { s.supply with state := .normal, cautionRunning := false, recoveryRunning := false } }

/-- The end of a caution that was told is told too. -/
theorem State.supplyRecovers_mounted (mounted : s.store ≠ .mounting) : s.supplyRecovers
    = (if s.supply.state = .cautionLong then s.supplyNormal.raise (.supply .normalAgain) else s.supplyNormal).resumeSelect := by
  rw [← State.askSupply_raised (s := s.supplyNormal) mounted]
  simp only [State.supplyRecovers, decide_eq_true_eq]
  rfl

theorem State.supplyRecovers_caution (caution : s.supply.state = .caution) :
    s.supplyRecovers = s.supplyNormal.resumeSelect := by
  simp [State.supplyRecovers, caution, State.supplyNormal]

theorem State.supplyRecovers_mounting (long : s.supply.state = .cautionLong) (mounting : s.store = .mounting) :
    s.supplyRecovers
      = State.resumeSelect { s.supplyNormal with notices := { s.notices with deferred := false } } := by
  have asked := State.askSupply_deferred (s := s.supplyNormal) mounting .normalAgain
  simp only [State.supplyRecovers, long, decide_true, if_true]
  exact congrArg State.resumeSelect asked

/-- What the end of a caution tells leaves the engine and the array alone. -/
theorem State.toldNormal_engine (s : State) :
    let told := if s.supply.state = .cautionLong then s.supplyNormal.raise (.supply .normalAgain) else s.supplyNormal
    told.compaction = s.compaction ∧ told.array = s.array := by
  intro told
  simp only [told]
  split
  · exact ⟨(raise_engine _ _).2.1, (raise_engine _ _).1⟩
  · exact ⟨rfl, rfl⟩

section
variable (running : s.restarting = none) (timer : s.supply.cautionRunning = true)
include running timer

/-- The caution timer expires with the store mounted: the notice, and then what it does to the executor's work. -/
theorem exec_cautionTimerExpiry_mounted (mounted : s.store ≠ .mounting) {noticed : State}
    (told : noticed = s.supplyLong.raise (.supply .cautionLongBegin)) {t : State}
    (ended : (noticed.cautionCommit).cautionIncrement = t)
    (nothing : t.nothingToTake) : exec .cautionTimerExpiry s = .next t := by
  rw [exec_cautionTimerExpiry running timer, State.askSupply_raised (s := s.supplyLong) mounted, ← told, ended,
    State.runExecutor_nothing nothing]

end

/-- Settles O57: caution, the two timers' expiries, and what they do to the executor's work and to the engine. -/
theorem supplySupervision : Obligations.SupplySupervision := by
  intro s fallen long noticed normal released
  have quiet : Undisturbed long noticed := (Undisturbed.refl long).raise _
  obtain ⟨array, engine, executor⟩ : noticed.array = s.array ∧ noticed.compaction = s.compaction ∧
    noticed.executor = s.executor := raise_engine long _
  have txn : noticed.txn = s.txn := quiet.txn
  refine ⟨fun running state => ?_, fun state => ?_, fun running below => ?_,
    fun above => congrArg Host.Outcome.next (if_pos above), rfl,
    fun stopped => ?_, fun stopped => ?_, fun running nothing timer => ?caution, fun running timer mounted => ?recovery,
    fun running phase timer => ?elsewhere⟩
  · change execSupplyCaution s = _
    simp [execSupplyCaution, running, state, State.vddFalls, fallen]
  · change execSupplyCaution s = _
    simp [execSupplyCaution, state, State.vddFalls, fallen]
  · change execVddAboveRecovery s = _
    simp [execVddAboveRecovery, State.vddRises, below, running, State.measuresRecovery, State.restartNeedsSupply]
  · change execCautionTimerExpiry s = _
    simp [execCautionTimerExpiry, stopped]
  · change execRecoveryTimerExpiry s = _
    simp [execRecoveryTimerExpiry, stopped]
  case caution =>
    have empty : long.nothingToTake := nothing
    refine ⟨fun mounted noIncrement kept => ?_, fun mounting noCommit noIncrement => ?_, fun r mounted finishes still =>
      ⟨fun c commit state early noIncrement => ?_, fun i increment noCommit => ?_⟩⟩
    · refine exec_cautionTimerExpiry_mounted (noticed := noticed) running timer mounted rfl ?_ (quiet.nothingToTake empty)
      have commitKept : noticed.cautionCommit = noticed := State.cautionCommit_kept (by rwa [executor, txn])
      have incrementKept : noticed.cautionIncrement = noticed := State.cautionIncrement_none (by rwa [executor])
      exact (congrArg State.cautionIncrement commitKept).trans incrementKept
    · rw [exec_cautionTimerExpiry running timer, State.askSupply_deferred (s := s.supplyLong) mounting,
        State.cautionCommit_kept (by simp [State.supplyLong, noCommit]),
        State.cautionIncrement_none (by simp [State.supplyLong, noIncrement])]
      exact congrArg Host.Outcome.next (State.runExecutor_nothing (.inr (.inl mounting)))
    · refine exec_cautionTimerExpiry_mounted (noticed := noticed) running timer mounted rfl ?_
        (State.nothingToTake_queue finishes.2.2.1)
      have ends : noticed.cautionCommit = noticed.failCommit c .supplyLow := by
        rw [State.cautionCommit, executor, commit]
        exact (if_pos ⟨txn ▸ state, early⟩).trans (congrArg (State.failCommit · c .supplyLow)
          (State.disown_still (array ▸ still) _))
      rw [ends, State.failCommit_room finishes.2.1 finishes.txRoom,
        State.cautionIncrement_none (by simp [State.answered, State.replied, executor, noIncrement]), array, executor, txn]
      rfl
    · refine exec_cautionTimerExpiry_mounted (noticed := noticed) running timer mounted rfl ?_
        (State.nothingToTake_queue finishes.2.2.1)
      have commitKept : noticed.cautionCommit = noticed := State.cautionCommit_kept (by simp [executor, noCommit])
      have ends : noticed.cautionIncrement = noticed.failIncrement i .supplyLow := by
        rw [State.cautionIncrement, executor, increment]
        exact congrArg (State.failIncrement · i .supplyLow) (State.disown_still (array ▸ still) _)
      rw [commitKept, ends, State.failIncrement_released finishes.2.1 finishes.txRoom, array, executor]
      rfl
  case recovery =>
    intro told flying
    obtain ⟨engine, array⟩ : told.compaction = s.compaction ∧ told.array = s.array := State.toldNormal_engine s
    have toldFlying : told.flying .compaction = true ↔ flying := by
      rw [State.flying_iff, array]
    have recovers : exec .recoveryTimerExpiry s = .next told.resumeSelect := by
      rw [exec_recoveryTimerExpiry running timer, State.supplyRecovers_mounted mounted]
      rfl
    refine ⟨fun phase inFlight => ?_, fun host automatic victims reclaimed action selecting still => ?_⟩
    · rw [recovers, State.resumeSelect_kept (.inr (toldFlying.2 inFlight))]
    · have phase : told.compaction.phase = .select := by rw [engine, selecting]; rfl
      rw [recovers, State.resumeSelect_selects phase (fun h => still (toldFlying.1 h))]
      have selects := enterSelect_selects told
      rw [engine, selecting] at selects
      exact selects
  case elsewhere =>
    refine ⟨fun caution => ?_, fun state mounted => ?_, fun state mounting => ?_⟩
    · rw [exec_recoveryTimerExpiry running timer, State.supplyRecovers_caution caution,
        State.resumeSelect_kept (s := s.supplyNormal) (.inl phase)]
      rfl
    · rw [exec_recoveryTimerExpiry running timer, State.supplyRecovers_mounted mounted, if_pos state,
        State.resumeSelect_kept (.inl (by rw [(raise_engine _ _).2.1]; exact phase))]
      rfl
    · rw [exec_recoveryTimerExpiry running timer, State.supplyRecovers_mounting state mounting]
      exact congrArg Host.Outcome.next (State.resumeSelect_kept (.inl phase))

/-! ### Restart causes -/

/-- A cell becomes indeterminate and no other changes. -/
theorem Memory.read_write_indeterminate {m : Memory} (wf : m.wf = true) (a : Nat) :
    (m.write a .indeterminate).read a = .indeterminate ∧
      ∀ b, b ≠ a → (m.write a .indeterminate).read b = m.read b :=
  ⟨by rw [Memory.read_write wf, if_pos rfl], fun b other => by rw [Memory.read_write wf, if_neg other]⟩

theorem State.cutOff_none (h : s.array.inFlight = none) : s.cutOff = s := by
  rw [State.cutOff, h]

theorem State.cutOff_inFlight (s : State) : s.cutOff.array.inFlight = none := by
  unfold State.cutOff
  split
  · assumption
  · rfl

theorem State.cutOff_array (s : State) : s.cutOff = { s with array := s.cutOff.array } := by
  unfold State.cutOff
  split <;> rfl

theorem State.cutOff_array_of {t : State} (h : t.array = s.array) : t.cutOff.array = s.cutOff.array := by
  unfold State.cutOff
  rw [h]
  split <;> simp [h]

theorem State.cutOff_cells {f : Flight} (h : s.array.inFlight = some f) : s.cutOff.array.cells = match f.op with
    | .read .. => s.array.cells
    | .program p c _ => s.array.cells.write (cellAddress p c) .indeterminate
    | .openHeader p _ => s.array.cells.write (cellAddress p 1) .indeterminate
    | .erase p _ => s.array.cells.spoilPage p := by
  obtain ⟨owner, op⟩ := f
  cases op <;> simp [State.cutOff, h]

theorem State.takeCause_cold {c : Cause} (cold : isCold c = true) : s.takeCause c = { s.cutOff.emptyNotices with
    restarting := some { cause := c, cold := true, needsResetHigh := false }
    supply := { s.supply with vddGood := if s.restarting.isNone then false else s.supply.vddGood } } := by
  unfold State.takeCause
  rw [State.cutOff_array]
  cases s.restarting <;> cases c <;> simp_all [isCold, State.emptyNotices]

theorem State.takeCause_resetLine (s : State) : s.takeCause .resetLine = { s.emptyNotices with
    restarting := some { cause := .resetLine, cold := s.restarting.any Restarting.cold, needsResetHigh := true }
    supply := { s.supply with vddGood := if s.restarting.isNone then false else s.supply.vddGood } } := by
  unfold State.takeCause
  cases s.restarting <;> simp [isCold, State.emptyNotices]

/-- RESET_N is read in a cold restart as VDD rises (R178). -/
theorem State.vddRises_cold {r : Restarting} (restarting : s.restarting = some r) (cold : r.cold = true)
    (below : s.supply.vddAbove = false) :
    let t : State := { s with supply := { s.supply with vddAbove := true, recoveryRunning := true } }
    s.vddRises = if s.supply.resetNHigh = false then t.takeCause .resetLine else t := by
  simp [State.vddRises, below, State.measuresRecovery, State.restartNeedsSupply, restarting, cold]

/-- s after the cold cause POWER_ON, before VDD rises: what stands below the retention level is lost (R176). -/
def State.powerLost (s : State) : State :=
  { s.vddFalls.takeCause .powerOn with notices := { (s.vddFalls.takeCause .powerOn).notices with
    report := Report.unbuilt, startAcknowledged := false, earlierCauses := [], currentCause := .powerOn } }

theorem State.powerLost_eq (s : State) : s.powerLost = { s.vddFalls.cutOff.emptyNotices with
    restarting := some { cause := .powerOn, cold := true, needsResetHigh := false }
    supply := { s.vddFalls.supply with vddGood := false }
    notices := { s.vddFalls.cutOff.emptyNotices.notices with
      report := Report.unbuilt, startAcknowledged := false, earlierCauses := [], currentCause := .powerOn } } := by
  rw [State.powerLost, State.takeCause_cold rfl]
  simp [State.vddFalls]

theorem exec_powerOn (s : State) : exec .powerOn s = .next s.powerLost.vddRises := rfl

theorem exec_resetLine_low (low : s.supply.resetNHigh = false) : exec .resetLine s = .next (s.takeCause .resetLine) :=
  congrArg Host.Outcome.next (if_neg (by simp [low]))

theorem exec_resetLine_high (high : s.supply.resetNHigh = true) : exec .resetLine s = .next s :=
  congrArg Host.Outcome.next (if_pos high)

/-- Settles O58: the cold causes cut off the operation in flight, the warm one leaves the array alone. -/
theorem restartCausesAreTaken : Obligations.RestartCausesAreTaken := by
  intro s wf spoiled cutOff
  have cuts {t : State} (array : t.array = s.cutOff.array) (queue : t.notices.queue = []) : cutOff t := by
    have cells {f : Flight} (flight : s.array.inFlight = some f) := (congrArg ArrayState.cells array).trans
      (State.cutOff_cells flight)
    have spoils (a : Nat) := Memory.read_write_indeterminate wf a
    refine ⟨by rw [array, State.cutOff_inFlight], queue, by simp [State.alertNLow, queue], fun still => ?_,
      fun o p c n flight => cells flight, fun o p c w flight => ?_, fun o p w flight => ?_, fun o p n flight => ?_⟩
    · rw [array, State.cutOff_none still]
    · rw [cells flight]
      exact ⟨fun a at' => at' ▸ (spoils _).1, (spoils _).2⟩
    · rw [cells flight]
      exact ⟨fun a at' => at' ▸ (spoils _).1, (spoils _).2⟩
    · rw [cells flight]
      exact ⟨fun a at' => by rw [Memory.read_spoilPage wf, if_pos at'],
        fun a other => by rw [Memory.read_spoilPage wf, if_neg other]⟩
  have fallen : s.vddFalls.cutOff.array = s.cutOff.array := State.cutOff_array_of rfl
  refine ⟨⟨_, rfl, ?_⟩, ⟨_, exec_powerOn s, ?_⟩, fun low => ⟨s.takeCause .resetLine, exec_resetLine_low low, ?_⟩,
    exec_resetLine_high⟩
  · rw [State.takeCause_cold rfl]
    exact ⟨rfl, cuts fallen rfl⟩
  · have rises := State.vddRises_cold (s := s.powerLost) (r := { cause := .powerOn, cold := true, needsResetHigh := false })
      (by rw [State.powerLost_eq]) rfl (by rw [State.powerLost_eq]; rfl)
    rw [rises]
    have level : s.powerLost.supply.resetNHigh = s.supply.resetNHigh := by
      rw [State.powerLost_eq]
      rfl
    rw [level]
    by_cases low : s.supply.resetNHigh = false
    · rw [if_pos low, State.takeCause_resetLine, State.powerLost_eq]
      exact ⟨cuts fallen rfl, fun high => absurd (low.symm.trans high) (by decide), fun _ => rfl, rfl, rfl, rfl, rfl, rfl⟩
    · rw [if_neg low, State.powerLost_eq]
      exact ⟨cuts fallen rfl, fun _ => rfl, fun h => absurd h low, rfl, rfl, rfl, rfl, rfl⟩
  · rw [State.takeCause_resetLine]
    refine ⟨rfl, rfl, rfl, fun running => ?_, fun r restarting => ?_⟩
    · simp [running]
    · simp [restarting]

/-! ### RESET_N -/

/-- s with RESET_N high again and no frame cut off. -/
def State.resetNHighAgain (s : State) : State :=
  { s with supply := { s.supply with resetNHigh := true }, link := { s.link with cutOff := false } }

theorem exec_resetNRise_low (running : s.restarting = none) (low : s.supply.resetNHigh = false) :
    exec .resetNRise s = .next (if s.link.cutOff = true then s.resetNHighAgain.headSent else s.resetNHighAgain) := by
  refine congrArg Host.Outcome.next ((if_neg (by simp [low])).trans (if_congr ?_ rfl rfl))
  simp [running]

/-- Settles O59: a fall cuts off the frame being sent, which leaves the queue at the rise. -/
theorem resetNCutsOffTheFrame : Obligations.ResetNCutsOffTheFrame := by
  intro f rest s running
  refine ⟨fun high => ?_, fun low cut transmit plain => ?_, fun low whole => ?_, fun low => ?_, fun high => ?_⟩
  · change execResetNFall s = _
    have cut : s.sending.isSome = !s.link.transmit.isEmpty := by
      rw [State.sending, if_pos (State.listening_of running high)]
      cases s.link.transmit <;> rfl
    simp [execResetNFall, high, cut, State.emptyNotices]
  · rw [exec_resetNRise_low running low, if_pos cut, State.headSent_plain (s := s.resetNHighAgain) transmit plain]
    rfl
  · rw [exec_resetNRise_low running low, if_neg (by simp [whole])]
    have kept : { s.link with cutOff := false } = s.link := by rw [← whole]
    exact congrArg (fun l => Host.Outcome.next
      ({ s with supply := { s.supply with resetNHigh := true }, link := l } : State)) kept
  · change execResetNFall s = _
    simp [execResetNFall, low]
  · change execResetNRise s = _
    simp [execResetNRise, high]

/-! ### The restart proceeds -/

section
variable {r : Restarting} (restarting : s.restarting = some r)
include restarting

/-- The conditions of R178, spelled. -/
theorem State.canProceed_iff : s.canProceed = true ↔ s.array.inFlight = none ∧
    (r.needsResetHigh = true → s.supply.resetNHigh = true) ∧
      ((r.cold = false ∧ s.supply.state = .normal) ∨ s.supply.vddGood = true) := by
  have supply : s.restartNeedsSupply = true ↔ ¬(r.cold = false ∧ s.supply.state = .normal) := by
    simp only [State.restartNeedsSupply, restarting, Option.any_some, Option.isSome_some, Bool.true_and, Bool.or_eq_true,
      decide_eq_true_eq, not_and_or, Bool.not_eq_false]
  rw [State.canProceed, restarting]
  simp only [Bool.and_eq_true, Option.isNone_iff_eq_none, Bool.or_eq_true, Bool.not_eq_true', and_assoc]
  refine and_congr Iff.rfl (and_congr ?_ ?_)
  · cases r.needsResetHigh <;> simp
  · rw [← Bool.not_eq_true, supply, not_not]

theorem exec_restartProceed (rateHigh : Bool) :
    exec (.restartProceed rateHigh) s = .next (if s.canProceed then s.proceed r rateHigh else s) := by
  change execRestartProceed rateHigh s = _
  rw [execRestartProceed, restarting]

end

/-- Settles O60: every block takes its restart values once the conditions hold, and nothing happens before. -/
theorem restartProceeds : Obligations.RestartProceeds := by
  intro rateHigh r s restarting causes supplyMet
  rw [exec_restartProceed restarting]
  refine ⟨fun still high supply => ?_, fun unmet => ?_⟩
  · rw [if_pos ((State.canProceed_iff restarting).2 ⟨still, high, supply⟩)]
    rfl
  · refine congrArg Host.Outcome.next (if_neg fun proceeds => ?_)
    obtain ⟨still, high, supply⟩ := (State.canProceed_iff restarting).1 proceeds
    rcases unmet with flying | ⟨needs, low⟩ | unmet
    · exact flying still
    · exact absurd (low.symm.trans (high needs)) (by decide)
    · exact unmet supply

end Sys2Proof.Machine
end

section
/-! Notices and the arbiter's choice (R163 to R165, R96 to R99): a notice raised in each state of the queues, and which
request the arbiter grants. -/

namespace Sys2Proof.Machine

variable {s : State}

/-! ### Notices -/

theorem nextNoticeNumber_eq {n : Nat} (h : n ≤ 255) : nextNoticeNumber n = if n = 255 then 1 else n + 1 := by
  unfold nextNoticeNumber
  split <;> split <;> omega

theorem noticeFrame_eq (n : Notice) : noticeFrame n =
    { kind := noticeCode n.content, tag := BitVec.ofNat 8 n.number, payload := beBytes 1 n.lost ++ noticeBytes n.content } := by
  rfl

/-- A frame of the outgoing list belongs to a notice still queued. -/
theorem frameOfQueued_iff (queue : List Notice) (f : Frame) :
    frameOfQueued queue f = true ↔ ∃ n ∈ queue, BitVec.ofNat 8 n.number = f.tag := by
  simp [frameOfQueued]

/-- With every frame kept, the turns stay as they stand. -/
theorem keepTurns_all {keep : Frame → Bool} : ∀ {frames : List Frame} {turns : List Producer}, (∀ f ∈ frames, keep f = true) →
    turns.count .noticeUnit = frames.length → keepTurns keep frames turns = turns
  | _, [], _, _ => by rw [keepTurns]
  | frames, .handler :: turns, all, count => by
    rw [keepTurns, keepTurns_all all (by simpa using count)]
  | frames, .executor :: turns, all, count => by
    rw [keepTurns, keepTurns_all all (by simpa using count)]
  | [], .noticeUnit :: turns, all, count => by simp at count
  | f :: frames, .noticeUnit :: turns, all, count => by
    rw [keepTurns, if_pos (all f (by simp)),
      keepTurns_all (fun g m => all g (List.mem_cons_of_mem _ m)) (by simpa using count)]

/-- The first frame goes, with the notice unit's first turn. -/
theorem keepTurns_first {keep : Frame → Bool} {first : Frame} {more : List Frame} {others : List Producer}
    (goes : keep first = false) (stay : ∀ f ∈ more, keep f = true) (count : others.count .noticeUnit = more.length) :
    ∀ {before : List Producer}, Producer.noticeUnit ∉ before →
      keepTurns keep (first :: more) (before ++ .noticeUnit :: others) = before ++ others
  | [], _ => by
    rw [List.nil_append, keepTurns, if_neg (by simp [goes]), keepTurns_all stay count]
    rfl
  | .handler :: before, h => by
    rw [List.cons_append, keepTurns, keepTurns_first goes stay count (fun m => h (List.mem_cons_of_mem _ m))]
    rfl
  | .executor :: before, h => by
    rw [List.cons_append, keepTurns, keepTurns_first goes stay count (fun m => h (List.mem_cons_of_mem _ m))]
    rfl
  | .noticeUnit :: before, h => absurd (by simp) h

/-- The turns of an empty outgoing list: none is the notice unit's. -/
theorem keepTurns_none {keep : Frame → Bool} : keepTurns keep [] [] = [] := by rw [keepTurns]

section
variable (content : NoticeContent) (lost : Nat) (kept : List Notice)

/-- s with a notice joined to a queue. -/
def State.queueNotice (s : State) : State :=
  { s with notices := { s.notices with
    queue := kept ++ [{ number := s.notices.nextNumber, lost, content }]
    nextNumber := nextNoticeNumber s.notices.nextNumber } }

/-- s with a notice joined to a queue, whose frame is still to be sent. -/
def State.noticeQueued (s : State) : State := (s.queueNotice content lost kept).dropUnsent kept

/-- s with an outgoing list and the producers that wait. -/
def State.withTurns (s : State) (outgoing : List Frame) (waiters : List Producer) : State :=
  { s with notices := { s.notices with outgoing }, link := { s.link with waiters } }

theorem State.joinNotice_room (room : s.notices.queue.length < 8) : s.joinNotice content
    = (s.noticeQueued content 0 s.notices.queue).sendNotice (noticeFrame { number := s.notices.nextNumber, lost := 0, content }) := by
  simp only [State.joinNotice, Config.noticeCapacity, room, if_true]
  rfl

theorem State.joinNotice_full {oldest : Notice} {rest : List Notice} (queue : s.notices.queue = oldest :: rest)
    (full : rest.length = 7) : s.joinNotice content = (s.noticeQueued content (min (oldest.lost + 1) 255) rest).sendNotice
      (noticeFrame { number := s.notices.nextNumber, lost := min (oldest.lost + 1) 255, content }) := by
  have notRoom : ¬s.notices.queue.length < 8 := by simp [queue, full]
  simp only [State.joinNotice, Config.noticeCapacity, notRoom, if_false]
  simp only [queue]
  rfl

/-- With every waiting frame that of a notice still queued, nothing leaves the outgoing list. -/
theorem State.noticeQueued_all (stay : ∀ f ∈ s.notices.outgoing, ∃ n ∈ kept, BitVec.ofNat 8 n.number = f.tag)
    (turns : s.link.waiters.count .noticeUnit = s.notices.outgoing.length) :
    s.noticeQueued content lost kept = s.queueNotice content lost kept := by
  have all : ∀ f ∈ s.notices.outgoing, frameOfQueued kept f = true := fun f m => (frameOfQueued_iff kept f).2 (stay f m)
  simp only [State.noticeQueued, State.queueNotice, State.dropUnsent, keepTurns_all all turns, List.filter_eq_self.2 all]

/-- The frame of the notice that leaves goes with the notice unit's first turn. -/
theorem State.noticeQueued_first {first : Frame} {more : List Frame} {before others : List Producer}
    (outgoing : s.notices.outgoing = first :: more) (waiters : s.link.waiters = before ++ .noticeUnit :: others)
    (earlier : Producer.noticeUnit ∉ before) (goes : ∀ n ∈ kept, BitVec.ofNat 8 n.number ≠ first.tag)
    (stay : ∀ f ∈ more, ∃ n ∈ kept, BitVec.ofNat 8 n.number = f.tag) (turns : others.count .noticeUnit = more.length) :
    s.noticeQueued content lost kept = (s.queueNotice content lost kept).withTurns more (before ++ others) := by
  have left : frameOfQueued kept first = false := by
    rw [Bool.eq_false_iff, Ne, frameOfQueued_iff]
    exact fun ⟨n, m, same⟩ => goes n m same
  have all : ∀ f ∈ more, frameOfQueued kept f = true := fun f m => (frameOfQueued_iff kept f).2 (stay f m)
  have filtered : (first :: more).filter (frameOfQueued kept) = more := by
    rw [List.filter_cons_of_neg (by simp [left]), List.filter_eq_self.2 all]
  simp only [State.noticeQueued, State.queueNotice, State.dropUnsent, State.withTurns, outgoing, waiters, filtered,
    keepTurns_first left all turns earlier]

end

theorem State.sendNotice_place (empty : s.notices.outgoing = []) (short : s.link.transmit.length < 6)
    (noWaiter : s.link.waiters = []) (f : Frame) : s.sendNotice f = s.placeFrame f :=
  if_pos (by simp [State.txRoom, Config.transmitCapacity, empty, short, noWaiter])

theorem State.sendNotice_waits (noPlace : 6 ≤ s.link.transmit.length ∨ s.link.waiters ≠ []) (f : Frame) :
    s.sendNotice f = { s with
      notices := { s.notices with outgoing := s.notices.outgoing ++ [f] }
      link := { s.link with waiters := s.link.waiters ++ [.noticeUnit] } } := by
  refine if_neg ?_
  rcases noPlace with full | waits
  · simp [State.txRoom, Config.transmitCapacity, Nat.not_lt.2 full]
  · simp [State.txRoom, waits]

/-- Settles O38: a notice raised with a place free, with none, at a full queue, and while the queue has to be empty. -/
theorem noticeIsRaised : Obligations.NoticeIsRaised := by
  refine ⟨fun content s range high warm => ?raised, fun content s range muted => ?muted, fun s => ?alert⟩
  case raised =>
    intro number unit frame
    have numbered := nextNoticeNumber_eq range
    have joins : s.raise content = s.joinNotice content := raise_unmuted content (muted_eq_false high warm)
    have noFrames {queue : List Notice} {lost : Nat} (empty : s.notices.outgoing = []) :
        unit queue lost s.notices.outgoing = unit queue lost [] := by rw [empty]
    refine ⟨fun room empty short noWaiter => ?_, fun oldest rest queue full empty short noWaiter => ?_,
      fun room noPlace stay turns => ?_, fun oldest rest queue full noPlace stay turns => ?_,
      fun oldest rest first more before others queue full outgoing waiters earlier noPlace goes stay turns => ?_⟩
    · rw [joins, State.joinNotice_room content room,
        State.noticeQueued_all content 0 _ (by simp [empty]) (by simp [empty, noWaiter]),
        State.sendNotice_place (s := s.queueNotice ..) empty short noWaiter, State.queueNotice, numbered, ← noFrames empty]
      rfl
    · rw [joins, State.joinNotice_full content queue full,
        State.noticeQueued_all content _ _ (by simp [empty]) (by simp [empty, noWaiter]),
        State.sendNotice_place (s := s.queueNotice ..) empty short noWaiter, State.queueNotice, numbered, ← noFrames empty]
      rfl
    · rw [joins, State.joinNotice_room content room, State.noticeQueued_all content 0 _ stay turns,
        State.sendNotice_waits (s := s.queueNotice ..) noPlace, State.queueNotice, numbered]
      rfl
    · rw [joins, State.joinNotice_full content queue full, State.noticeQueued_all content _ _ stay turns,
        State.sendNotice_waits (s := s.queueNotice ..) noPlace, State.queueNotice, numbered]
      rfl
    · have nonempty (h : before ≠ [] ∨ others ≠ []) : before ++ others ≠ [] := fun both =>
        h.elim (· (List.append_eq_nil_iff.1 both).1) (· (List.append_eq_nil_iff.1 both).2)
      rw [joins, State.joinNotice_full content queue full,
        State.noticeQueued_first content _ _ outgoing waiters earlier goes stay turns,
        State.sendNotice_waits (s := (s.queueNotice ..).withTurns _ _) (noPlace.imp_right nonempty), State.queueNotice,
        State.withTurns, numbered]
      rfl
  case muted =>
    have mutes : s.muted = true := by
      rcases muted with low | ⟨r, restarting, cold⟩
      · simp [State.muted, mutedBy, low]
      · simp [State.muted, mutedBy, restarting, cold]
    rw [raise_muted content mutes, nextNoticeNumber_eq range]
  case alert => simp [State.alertNLow]

/-! ### Eligibility -/

theorem State.supplyAllows_iff (s : State) (op : RequestOp) : s.supplyAllows op = true ↔ op = .read ∨ s.supply.state = .normal := by
  cases op <;> simp [State.supplyAllows]

theorem Compaction.record_iff (c : Compaction) (rec : SurveyRec) :
    c.record = some rec ↔ ∃ k, c.walk = some k ∧ c.survey[k]? = some rec := by
  simp [Compaction.record, Option.bind_eq_some_iff]

/-- A tally's entry: its base or a bump. -/
def Entry.ofTally (e : Entry) (ident : Nat) : Prop :=
  (∃ flags txn gen value, e = .tallyBase flags ident txn gen value) ∨ ∃ ordinal delta gen, e = .bump ordinal ident delta gen

/-- The record at the walk position belongs to this tally. -/
def Compaction.atTally (c : Compaction) (ident : Nat) : Prop :=
  ∃ k rec, c.walk = some k ∧ c.survey[k]? = some rec ∧ rec.entry.ofTally ident

/-- The engine folds, or copies. -/
def Action.programs (a : Action) : Prop := (∃ f, a = .fold f) ∨ ∃ words granted, a = .copy words granted

theorem Compaction.atTally_iff {c : Compaction} {rec : SurveyRec} (h : c.record = some rec) (ident : Nat) :
    c.atTally ident ↔ rec.entry.ofTally ident := by
  obtain ⟨k, walk, survey⟩ := (c.record_iff rec).1 h
  refine ⟨fun ⟨j, x, walk', survey', tally⟩ => ?_, fun tally => ⟨k, rec, walk, survey, tally⟩⟩
  obtain rfl : j = k := Option.some.inj (walk'.symm.trans walk)
  obtain rfl : x = rec := Option.some.inj (survey'.symm.trans survey)
  exact tally

theorem Compaction.atTally.record {c : Compaction} {ident : Nat} (h : c.atTally ident) : c.record ≠ none := by
  obtain ⟨k, rec, walk, survey, -⟩ := h
  simp [(c.record_iff rec).2 ⟨k, walk, survey⟩]

theorem Compaction.tallyConcern_iff (c : Compaction) (ident : Nat) :
    c.tallyConcern = some ident ↔ c.atTally ident ∧ c.action.programs := by
  cases record : c.record with
  | none => exact iff_of_false (by simp [Compaction.tallyConcern, record]) (fun h => h.1.record record)
  | some rec =>
    rw [Compaction.atTally_iff record, Compaction.tallyConcern, record]
    cases c.action <;> simp [Action.programs]
    all_goals cases rec.entry <;> simp [Entry.ofTally]

theorem Compaction.tallyHeld_iff (c : Compaction) (ident : Nat) : c.tallyHeld = some ident ↔ c.atTally ident ∧
    ((∃ f, c.action = .fold (some f)) ∨ ∃ words, c.action = .copy words true) := by
  cases action : c.action with
  | fold f => cases f <;> simp [Compaction.tallyHeld, action, Compaction.tallyConcern_iff, Action.programs]
  | copy words granted =>
    cases granted <;> simp [Compaction.tallyHeld, action, Compaction.tallyConcern_iff, Action.programs]
  | _ => simp [Compaction.tallyHeld, action]

theorem Executor.tallyHeld_iff (e : Executor) (ident : Nat) :
    e.tallyHeld = some ident ↔ ∃ i, e.increment = some i ∧ i.ident = ident ∧ i.composed ≠ none := by
  cases increment : e.increment with
  | none => simp [Executor.tallyHeld, increment]
  | some i => cases composed : i.composed <;> simp [Executor.tallyHeld, increment, composed]

/-- A commit with a program granted stages this identifier (R7). -/
def State.commitStages (s : State) (ident : Nat) : Prop :=
  s.txn.state = .committing ∧ (∃ c, s.executor.commit = some c ∧ c.granted = true) ∧ ∃ op ∈ s.txn.staging, opIdent op = ident

theorem State.foldBarred_iff (s : State) (ident : Nat) : s.foldBarred ident = true ↔ s.commitStages ident := by
  simp [State.foldBarred, State.commitStages, Option.any_eq_true, and_assoc]

theorem State.recordBarred_iff (s : State) : s.recordBarred = true ↔ ∃ ident, (∃ k rec, s.compaction.walk = some k ∧
    s.compaction.survey[k]? = some rec ∧ entryIdent rec.entry = some ident) ∧ s.commitStages ident := by
  simp only [State.recordBarred, Option.any_eq_true, Option.bind_eq_some_iff, Compaction.record_iff, State.foldBarred_iff]
  exact ⟨fun ⟨ident, ⟨rec, ⟨k, walk, survey⟩, entry⟩, stages⟩ => ⟨ident, ⟨k, rec, walk, survey, entry⟩, stages⟩,
    fun ⟨ident, ⟨k, rec, walk, survey, entry⟩, stages⟩ => ⟨ident, ⟨rec, ⟨k, walk, survey⟩, entry⟩, stages⟩⟩

theorem State.foldWaits_iff (s : State) :
    s.foldWaits = true ↔ (∃ f, s.compaction.action = .fold f) ∧ s.recordBarred = true := by
  cases action : s.compaction.action <;> simp [State.foldWaits, action]

theorem State.executorEligible_iff {op : RequestOp} (request : s.array.executorRequest = some op) :
    s.executorEligible = true ↔ (op = .read ∨ s.supply.state = .normal) ∧
      (op = .program → ∀ i, s.executor.increment = some i → s.compaction.tallyHeld ≠ some i.ident) ∧
      (s.executor.format = none ∨ s.compaction.phase = .idle) := by
  simp only [State.executorEligible, request, Bool.and_eq_true, State.supplyAllows_iff, and_assoc, Bool.not_eq_true',
    Bool.or_eq_true, Option.isNone_iff_eq_none, decide_eq_true_eq]
  refine and_congr Iff.rfl (and_congr ?_ Iff.rfl)
  by_cases program : op = .program
  · cases s.executor.increment <;> simp [program]
  · simp [program]

theorem State.compactionEligible_iff {op : RequestOp} (request : s.array.compactionRequest = some op) :
    s.compactionEligible = true ↔ (op = .read ∨ s.supply.state = .normal) ∧
      (op = .program → (∀ ident, s.compaction.tallyConcern = some ident → s.executor.tallyHeld ≠ some ident) ∧
        s.foldWaits = false) := by
  simp only [State.compactionEligible, request, Bool.and_eq_true, State.supplyAllows_iff, and_assoc]
  refine and_congr Iff.rfl ?_
  by_cases program : op = .program
  · cases s.compaction.tallyConcern <;> cases s.foldWaits <;> simp [program]
  · simp [program]

theorem State.mountEligible_iff {op : RequestOp} (request : s.array.mountRequest = some op) :
    s.mountEligible = true ↔ op = .read ∨ s.supply.state = .normal := by
  simp [State.mountEligible, request, State.supplyAllows_iff]

/-! ### The choice -/

theorem State.chooseRequester_mount (mounting : s.mount ≠ none) :
    s.chooseRequester = if s.mountEligible then some .mount else none :=
  if_pos (Option.isSome_iff_ne_none.2 mounting)

theorem State.chooseRequester_idle (idle : s.mount = none) : s.chooseRequester =
    match s.executorEligible, s.compactionEligible with
    | false, false => none
    | true, false => some .executor
    | false, true => some .compaction
    | true, true => if 2 ≤ s.erasedCount then some .executor else some .compaction := by
  refine (if_neg (by simp [idle])).trans ?_
  cases s.executorEligible <;> cases s.compactionEligible <;> rfl

theorem exec_arbiterGrant_none (h : s.chooseRequester = none ∨ s.array.inFlight ≠ none ∨ s.restarting ≠ none) :
    exec .arbiterGrant s = .next s := by
  change execArbiterGrant s = _
  unfold execArbiterGrant
  split
  · next free =>
    rcases h with nobody | flying | restarting
    · rw [nobody]
    · exact absurd free.2 flying
    · exact absurd (Option.isNone_iff_eq_none.1 free.1) restarting
  · rfl

/-- Settles O39: what makes each request eligible, and which of two eligible ones is granted. -/
theorem arbiterChoosesByErasedCount : Obligations.ArbiterChoosesByErasedCount := by
  intro s normal ofTally ofRecord folding copying engineHolds incrementHolds committing
  have held (ident : Nat) : s.compaction.tallyHeld = some ident ↔ engineHolds ident := s.compaction.tallyHeld_iff ident
  have concern (ident : Nat) : s.compaction.tallyConcern = some ident ↔ ofTally ident ∧ (folding ∨ copying) :=
    s.compaction.tallyConcern_iff ident
  have increment (ident : Nat) : s.executor.tallyHeld = some ident ↔ incrementHolds ident := s.executor.tallyHeld_iff ident
  have waits : s.foldWaits = true ↔ folding ∧ ∃ ident, ofRecord ident ∧ committing ident := by
    rw [State.foldWaits_iff, State.recordBarred_iff]
    exact Iff.rfl
  have caution {op : RequestOp} (changes : op = .program ∨ op = .erase) (low : ¬normal) :
      ¬(op = .read ∨ s.supply.state = .normal) := by
    rintro (rfl | state)
    · simp at changes
    · exact low state
  refine ⟨State.chooseRequester_mount, fun idle => ?_, fun op changes low => ⟨fun request => ?_, fun request => ?_,
    fun request => ?_⟩, fun request i executing holds => ?_, fun request ident tally works holds => ?_,
    fun request ident record folds commits => ?_, fun format runs => ?_, fun op request allowed format free => ?_,
    fun op request allowed free => ?_, fun op request => (State.mountEligible_iff request).2, fun request => ?_,
    fun request => ?_, fun request => ?_, exec_arbiterGrant_none⟩
  · rw [State.chooseRequester_idle idle]
    refine ⟨fun e c => by rw [e, c], fun e c => by rw [e, c], fun e c => by rw [e, c], fun e c => ?_⟩
    rw [e, c]
    simp only [← Nat.not_le, ite_not]
  · rw [← Bool.not_eq_true, State.executorEligible_iff request]
    exact fun h => caution changes low h.1
  · rw [← Bool.not_eq_true, State.compactionEligible_iff request]
    exact fun h => caution changes low h.1
  · rw [← Bool.not_eq_true, State.mountEligible_iff request]
    exact caution changes low
  · rw [← Bool.not_eq_true, State.executorEligible_iff request]
    exact fun ⟨_, free, _⟩ => free rfl i executing ((held _).2 holds)
  · rw [← Bool.not_eq_true, State.compactionEligible_iff request]
    exact fun ⟨_, free⟩ => (free rfl).1 ident ((concern ident).2 ⟨tally, works⟩) ((increment ident).2 holds)
  · rw [← Bool.not_eq_true, State.compactionEligible_iff request]
    exact fun ⟨_, free⟩ => absurd (waits.2 ⟨folds, ident, record, commits⟩) (by simp [(free rfl).2])
  · cases request : s.array.executorRequest with
    | none => rw [State.executorEligible, request]
    | some op =>
      rw [← Bool.not_eq_true, State.executorEligible_iff request]
      exact fun ⟨_, _, free⟩ => free.elim format runs
  · exact (State.executorEligible_iff request).2 ⟨allowed, fun program i executing holds =>
      free program i executing ((held _).1 holds), format⟩
  · refine (State.compactionEligible_iff request).2 ⟨allowed, fun program => ⟨fun ident concerned holds => ?_, ?_⟩⟩
    · obtain ⟨tally, works⟩ := (concern ident).1 concerned
      exact (free program ident).1 tally works ((increment ident).1 holds)
    · rw [← Bool.not_eq_true, waits]
      exact fun ⟨folds, ident, record, commits⟩ => (free program ident).2 record folds commits
  · rw [State.executorEligible, request]
  · rw [State.compactionEligible, request]
  · rw [State.mountEligible, request]
    rfl

end Sys2Proof.Machine
end

section
/-! Grants (R91 to R96, R49 to R52): the operations that the arbiter's grants start, the placement of a commit's entries and
of its marker, and the page switch. -/

namespace Sys2Proof.Machine

variable {s : State}

/-! ### The grant -/

section
variable (running : s.restarting = none) (still : s.array.inFlight = none)
include running still

theorem exec_arbiterGrant_some {who : Requester} (chosen : s.chooseRequester = some who) :
    exec .arbiterGrant s = .next (s.grant who).runExecutor := by
  change execArbiterGrant s = _
  rw [execArbiterGrant, chosen, if_pos ⟨Option.isNone_iff_eq_none.2 running, still⟩]

/-- A grant that leaves the executor nothing to take ends the event. -/
theorem exec_granted {who : Requester} (chosen : s.chooseRequester = some who) {t : State} (granted : s.grant who = t)
    (nothing : t.nothingToTake) : exec .arbiterGrant s = .next t := by
  rw [exec_arbiterGrant_some running still chosen, granted, State.runExecutor_nothing nothing]

end

theorem State.chooseRequester_mounting {op : RequestOp} {m : MountRecord} (mounting : s.mount = some m)
    (request : s.array.mountRequest = some op) (allowed : op = .read ∨ s.supply.state = .normal) :
    s.chooseRequester = some .mount := by
  rw [State.chooseRequester_mount (by simp [mounting]), if_pos ((State.mountEligible_iff request).2 allowed)]

/-- s with a requester's request withdrawn and its operation in flight. -/
def State.flies (s : State) (who : Requester) (op : ArrayOp) : State := (s.request who none).start who op

theorem State.grant_mount_read {m : MountRecord} (mounting : s.mount = some m) (noErase : m.toErase = []) :
    s.grant .mount = s.flies .mount (.read (Fin.ofNat 32 (m.readIndex / 8)) (m.readIndex % 8 * 16) 16) := by
  simp [State.grant, State.grantMount, State.request, mounting, noErase, State.flies]

theorem State.grant_mount_erase {m : MountRecord} {p : PageIx} {rest : List PageIx} (mounting : s.mount = some m)
    (erases : m.toErase = p :: rest) : s.grant .mount = s.flies .mount (.erase p m.eraseCount) := by
  simp [State.grant, State.grantMount, State.request, mounting, erases, State.flies]

theorem State.grant_blobRead {ident : Nat} {e : DirEntry} (reading : s.executor.blobRead = some ident)
    (found : s.entryOf ident = some e) :
    s.grant .executor = s.flies .executor (.read e.loc.page e.loc.cell (currentCells e)) := by
  have found' : (s.request .executor none).entryOf ident = some e := found
  simp [State.grant, State.grantExecutor, State.grantBlobRead, State.request, reading, State.flies]
  simp [State.request] at found'
  simp [found']

theorem State.grant_commit {c : CommitRecord} (noRead : s.executor.blobRead = none) (commit : s.executor.commit = some c) :
    s.grant .executor = (s.request .executor none).grantCommit c := by
  simp [State.grant, State.grantExecutor, State.request, noRead, commit]

theorem State.grant_increment {i : IncrementRecord} (noRead : s.executor.blobRead = none) (noCommit : s.executor.commit = none)
    (increment : s.executor.increment = some i) : s.grant .executor = (s.request .executor none).grantIncrement i := by
  simp [State.grant, State.grantExecutor, State.request, noRead, noCommit, increment]

theorem State.grantCommit_run {c : CommitRecord} {run : Run} (inRun : c.run = some run) :
    s.grantCommit c = s.startCell .executor run := by
  rw [State.grantCommit, inRun]

theorem State.grantIncrement_run {i : IncrementRecord} {run : Run} (inRun : i.run = some run) :
    s.grantIncrement i = s.startCell .executor run := by
  rw [State.grantIncrement, inRun]

theorem State.grant_compaction (standing : s.foldLapsed = false) :
    s.grant .compaction = (s.request .compaction none).grantStep := by
  have standing' : (s.request .compaction none).foldLapsed = false := standing
  exact if_neg (by simp [standing'])

theorem State.grantStep_run {run : Run} (inRun : s.compaction.run = some run) : s.grantStep = s.startCell .compaction run := by
  rw [State.grantStep, inRun]

theorem State.grantStep_erase {second : Bool} {v : PageIx} (noRun : s.compaction.run = none)
    (action : s.compaction.action = .erase second) (victim : s.compaction.victim = some v) :
    s.grantStep = s.start .compaction (.erase v (nextEraseCount (s.page v).eraseCount)) := by
  simp [State.grantStep, noRun, action, victim]

/-- A fold stands while its identifier is a TALLY of the generation it was composed from (R15). -/
theorem State.foldLapsed_eq_false (stands : ∀ f, s.compaction.action = .fold (some f) → ∃ k rec ident e value bumps,
    s.compaction.walk = some k ∧ s.compaction.survey[k]? = some rec ∧ entryIdent rec.entry = some ident ∧
      s.entryOf ident = some e ∧ e.body = .tally value bumps ∧ e.gen + 1 = f.gen) : s.foldLapsed = false := by
  cases action : s.compaction.action with
  | fold composed =>
    cases composed with
    | none => rw [State.foldLapsed, action]
    | some f =>
      obtain ⟨k, rec, ident, e, value, bumps, walk, survey, entry, found, body, gen⟩ := stands f action
      have record : s.recordEntry = some e := by
        rw [State.recordEntry, ((Compaction.record_iff _ _).2 ⟨k, walk, survey⟩)]
        simp [entry, found]
      rw [State.foldLapsed, action]
      simp [State.foldStands, record, body, gen]
  | _ => rw [State.foldLapsed, action]

/-- Settles O40: each grant's operation. -/
theorem grantStartsTheOperation : Obligations.GrantStartsTheOperation := by
  intro s running still
  have grants {who : Requester} (chosen : s.chooseRequester = some who) {t : State} (granted : s.grant who = t)
      (nothing : t.nothingToTake) := exec_granted running still chosen granted nothing
  refine ⟨fun m mounting nothing noErase request => ?_, fun m p rest mounting nothing erases request normal => ?_,
    fun ident e chosen busy reading found => ?_, fun run => ⟨fun chosen busy noRead work => ?_,
    fun chosen nothing inRun stands => ?_⟩, fun v second chosen nothing noRun action victim => ?_⟩
  · exact grants (State.chooseRequester_mounting mounting request (.inl rfl)) (State.grant_mount_read mounting noErase) nothing
  · exact grants (State.chooseRequester_mounting mounting request (.inr normal)) (State.grant_mount_erase mounting erases)
      nothing
  · exact grants chosen (State.grant_blobRead reading found) (.inl busy)
  · rcases work with ⟨c, commit, inRun⟩ | ⟨noCommit, i, increment, inRun⟩
    · exact grants chosen ((State.grant_commit noRead commit).trans (State.grantCommit_run inRun)) (.inl busy)
    · exact grants chosen ((State.grant_increment noRead noCommit increment).trans (State.grantIncrement_run inRun))
        (.inl busy)
  · exact grants chosen ((State.grant_compaction (State.foldLapsed_eq_false stands)).trans
      (State.grantStep_run (s := s.request .compaction none) inRun)) nothing
  · have standing : s.foldLapsed = false := State.foldLapsed_eq_false (by simp [action])
    exact grants chosen ((State.grant_compaction standing).trans
      (State.grantStep_erase (s := s.request .compaction none) noRun action victim)) nothing

/-! ### What a commit still has to place -/

theorem zipIdx_eq_map_range {α : Type} (xs : List α) (d : α) :
    xs.zipIdx = (List.range xs.length).map (fun k => (xs.getD k d, k)) := by
  refine List.ext_getElem (by simp) fun k h _ => ?_
  have inside : k < xs.length := by simpa using h
  simp [inside]

/-- The positions from the present one on and those to be relocated, with the cells of each (R49). -/
theorem stillToPlace_eq (c : CommitRecord) (ops : List StagedOp) {cells : Nat → Nat}
    (each : ∀ k op, ops[k]? = some op → cells k = opCells op) : stillToPlace c ops
      = (((List.range ops.length).filter (fun k => c.position ≤ k ∨ k ∈ c.relocate)).map cells).sum + 1 := by
  rw [stillToPlace, zipIdx_eq_map_range ops (.delete 0), List.filter_map, List.map_map]
  have tests : (fun x : StagedOp × Nat => decide (c.position ≤ x.2) || decide (x.2 ∈ c.relocate)) ∘
      (fun k => (ops.getD k (.delete 0), k)) = fun k => decide (c.position ≤ k ∨ k ∈ c.relocate) := by
    funext k
    simp [Bool.decide_or]
  rw [tests]
  congr 2
  refine List.map_congr_left fun k member => ?_
  have inside : k < ops.length := List.mem_range.1 (List.mem_filter.1 member).1
  rw [each k ops[k] (List.getElem?_eq_getElem inside)]
  simp [inside]

/-! ### The attempt's words -/

theorem CommitRecord.target_relocate {c : CommitRecord} {i : Nat} {more : List Nat} (relocate : c.relocate = i :: more) :
    c.target = .relocate i := by
  rw [CommitRecord.target, relocate]

theorem CommitRecord.target_entry {c : CommitRecord} (relocate : c.relocate = []) (inside : c.position < c.items.length) :
    c.target = .entry c.position := by
  rw [CommitRecord.target, relocate]
  exact if_pos inside

theorem CommitRecord.target_marker {c : CommitRecord} (relocate : c.relocate = []) (position : c.position = c.items.length) :
    c.target = .marker := by
  rw [CommitRecord.target, relocate]
  exact if_neg (by simp [position])

section
variable {c : CommitRecord} {i : Nat} (target : c.target = .entry i ∨ c.target = .relocate i) {item : CommitItem}
  {op : StagedOp} (at' : c.items[i]? = some item) (staged : s.txn.staging[i]? = some op)
include target at' staged

theorem State.attemptWords_item : s.attemptWords c = ((item.composed.getD (s.composeOp op)).words,
    { c with items := c.items.set i { item with composed := some (item.composed.getD (s.composeOp op)) } }) := by
  rcases target with target | target <;> simp [State.attemptWords, target, at', staged]

/-- A composed entry stands as it is (R50). -/
theorem State.attemptWords_composed {made : Composed} (composed : item.composed = some made) :
    s.attemptWords c = (made.words, c) := by
  obtain ⟨inside, here⟩ := List.getElem?_eq_some_iff.1 at'
  have same : ({ item with composed := some made } : CommitItem) = c.items[i] := by rw [← composed, here]
  rw [State.attemptWords_item target at' staged, composed]
  simp only [Option.getD_some, same, List.set_getElem_self]

end

/-- The attempt of a commit fits the commit page: its run is reserved at the append point and its first cell goes out. -/
theorem State.grantCommit_placed {c : CommitRecord} {p : PageIx} {a : Nat} (noRun : c.run = none)
    (opened : s.openPage = some p) (append : s.array.appendPoint = some a) (same : ∀ q, c.commitPage = some q → q = p)
    (fits : stillToPlace c s.txn.staging ≤ 128 - a) {words : List CellWord} {d : CommitRecord}
    (attempt : s.attemptWords c = (words, d)) : s.grantCommit c = { s with
      executor := { s.executor with commit := some { d with
        commitPage := some p, granted := true, programmed := true,
        run := some { page := p, first := a, words, done := 0 } } }
      array := { s.array with
        appendPoint := some (a + words.length)
        inFlight := some { owner := some .executor, op := .program p a (words.getD 0 blankCell) } } } := by
  have free : s.freeCells = 128 - a := by rw [State.freeCells, opened, append]
  have commitFits : s.commitFits c = true := by
    rw [State.commitFits, opened]
    simpa [free, fits, Option.all_eq_true] using same
  rw [State.grantCommit, noRun]
  simp only [commitFits, if_true, attempt, opened, Option.getD_some, State.reserve, append]
  rfl

/-- Settles O41: the cells counted, and the placement of an entry composed now, of one composed before, and of the marker. -/
theorem commitPlacesAtTheAppendPoint : Obligations.CommitPlacesAtTheAppendPoint := by
  refine ⟨fun c ops => ?count, ?placement⟩
  case count =>
    refine stillToPlace_eq c ops fun k op at' => ?_
    rw [at']
    cases op <;> rfl
  case placement =>
    intro c p a number s running still chosen busy noRead commit noRun numbered opened append same fits placed
    let t : State := s.request .executor none
    have places {words : List CellWord} {d : CommitRecord} (attempt : t.attemptWords c = (words, d)) :
        exec .arbiterGrant s = .next (placed words d) :=
      exec_granted running still chosen ((State.grant_commit noRead commit).trans
        (State.grantCommit_placed (s := t) noRun opened append same fits attempt)) (.inl busy)
    refine ⟨fun item op relocate inside at' staged => ⟨fun fresh => ?_, fun made composed => ?_⟩,
      fun i more item op made relocate at' staged composed => ?_, fun relocate position => ?_⟩
    · intro gen words
      have attempt := State.attemptWords_item (s := t) (.inl (CommitRecord.target_entry relocate inside)) at' staged
      have made : t.composeOp op = { gen, words } := by
        unfold State.composeOp
        rw [show t.txn.number = some number from numbered]
        cases op <;> rfl
      rw [fresh, Option.getD_none, made] at attempt
      exact places attempt
    · exact places (State.attemptWords_composed (.inl (CommitRecord.target_entry relocate inside)) at' staged composed)
    · exact places (State.attemptWords_composed (.inr (CommitRecord.target_relocate relocate)) at' staged composed)
    · refine places ?_
      rw [State.attemptWords, CommitRecord.target_marker relocate position, show t.txn.number = some number from numbered]
      rfl

/-! ### A commit that opens a page -/

/-- The positions that have a final location, in staging order (R52). -/
theorem placedPositions_eq (items : List CommitItem) : placedPositions items
    = (List.range items.length).filter (fun i => (items[i]?.bind CommitItem.final).isSome) := by
  let d : CommitItem := { composed := none, final := none, finalStands := false, failures := 0 }
  rw [placedPositions, zipIdx_eq_map_range items d, List.filter_map, List.map_map]
  refine (List.map_id _).trans (List.filter_congr fun k member => ?_)
  have inside : k < items.length := List.mem_range.1 member
  simp [inside]

theorem State.commitFits_eq_false {c : CommitRecord} (opens : s.openPage = none ∨ (∃ p, s.openPage = some p ∧
    ((∃ q, c.commitPage = some q ∧ q ≠ p) ∨ s.freeCells < stillToPlace c s.txn.staging))) : s.commitFits c = false := by
  rcases opens with closed | ⟨p, opened, ⟨q, other, differs⟩ | short⟩
  · rw [State.commitFits, closed]
  · rw [State.commitFits, opened]
    simp [other, differs]
  · rw [State.commitFits, opened]
    simp [Nat.not_le.2 short]

section
variable {c : CommitRecord} (noRun : c.run = none) (unfit : s.commitFits c = false)
include noRun unfit

theorem State.grantCommit_switches {u : State} (made : s.pageSwitch .executor = some u) :
    s.grantCommit c = u.setCommit (some { c with
      commitPage := u.openPage, granted := true, relocate := placedPositions c.items }) := by
  rw [State.grantCommit, noRun]
  simp only [unfit, Bool.false_eq_true, if_false, made]

theorem State.grantCommit_starves (notMade : s.pageSwitch .executor = none) : s.grantCommit c =
    (if c.programmed then s.failCommit c .storeFull else s.refuseCommit .storeFull).setDemand := by
  rw [State.grantCommit, noRun]
  simp only [unfit, Bool.false_eq_true, if_false, notMade]
  split <;> rfl

end

theorem ArrayState.released_none (a : ArrayState) : a.released none = { a with executorRequest := none } := by
  simp [ArrayState.released]

/-- A demand set with no request waiting ends the event. -/
theorem exec_granted_demands (running : s.restarting = none) (still : s.array.inFlight = none) {who : Requester}
    (chosen : s.chooseRequester = some who) {t : State} (granted : s.grant who = t.setDemand)
    (nothing : t.nothingToTake) : t.demands (exec .arbiterGrant s) := by
  rw [exec_granted running still chosen granted ((Undisturbed.refl t).setDemand.nothingToTake nothing)]
  exact setDemand_demands t

/-- Settles O42: the new commit page, or the refusal and the end of the transaction. -/
theorem commitOpensAPage : Obligations.CommitOpensAPage := by
  intro c s running still chosen busy noRead commit noRun opens granted
  have unfit : granted.commitFits c = false := State.commitFits_eq_false (s := granted) opens
  have grants : s.grant .executor = granted.grantCommit c := State.grant_commit noRead commit
  refine ⟨fun u made => ?_, fun r notMade finishes => ?_⟩
  · have kept : Undisturbed granted u := (Undisturbed.refl granted).pageSwitch made
    rw [exec_granted running still chosen (grants.trans (State.grantCommit_switches noRun unfit made))
      (.inl (kept.executing ▸ busy)), placedPositions_eq]
    rfl
  · intro ended
    have starves := grants.trans (State.grantCommit_starves noRun unfit notMade)
    have room : granted.txRoom = true := finishes.txRoom
    refine ⟨fun fresh => ?_, fun programmed => ?_⟩
    · rw [fresh, State.refuseCommit_room (s := granted) finishes.2.1 room] at starves
      exact exec_granted_demands running still chosen starves (State.nothingToTake_queue finishes.2.2.1)
    · rw [programmed, if_pos rfl, State.failCommit_room (s := granted) finishes.2.1 room, noRun,
        ArrayState.released_none] at starves
      exact exec_granted_demands running still chosen starves (State.nothingToTake_queue finishes.2.2.1)

end Sys2Proof.Machine
end

section
/-! The page switch and the victim chosen (R91 to R95, R108): the page that each of the two folds over the page table picks,
and what a switch leaves. -/

namespace Sys2Proof.Machine

variable {s : State}

/-! ### Picking the best page -/

/-- A fold that keeps the better page: R p q says that p is at least as good as q. -/
theorem foldl_pick {better : PageIx → PageIx → Bool} {R : PageIx → PageIx → Prop} {f : Option PageIx → PageIx → Option PageIx}
    (step : ∀ b p, f (some b) p = if better p b = true then some p else some b) (refl : ∀ p, R p p)
    (takes : ∀ p q r, better p q = true → R q r → R p r) :
    ∀ (xs : List PageIx) (b : PageIx), (b :: xs).Pairwise (fun q p => better p q = false → R q p) →
      ∃ r, xs.foldl f (some b) = some r ∧ (r = b ∨ r ∈ xs) ∧ (∀ q, R b q → R r q) ∧ ∀ q ∈ xs, R r q
  | [], b, _ => ⟨b, rfl, .inl rfl, fun _ h => h, by simp⟩
  | p :: xs, b, ordered => by
    obtain ⟨first, rest⟩ := List.pairwise_cons.1 ordered
    rw [List.foldl_cons, step]
    by_cases wins : better p b = true
    · rw [if_pos wins]
      obtain ⟨r, picked, member, best, all⟩ := foldl_pick step refl takes xs p rest
      refine ⟨r, picked, .inr (List.mem_cons.2 member), fun q h => best q (takes p b q wins h), ?_⟩
      exact List.forall_mem_cons.2 ⟨best p (refl p), all⟩
    · rw [if_neg wins]
      obtain ⟨r, picked, member, best, all⟩ := foldl_pick step refl takes xs b
        (List.pairwise_cons.2 ⟨fun q m => first q (List.mem_cons_of_mem _ m), (List.pairwise_cons.1 rest).2⟩)
      refine ⟨r, picked, member.imp_right (List.mem_cons_of_mem _), best, ?_⟩
      exact List.forall_mem_cons.2 ⟨best p (first p (by simp) (by simpa using wins)), all⟩

/-- The page that the fold picks of a list, or none of an empty one. -/
theorem foldl_pick_none {better : PageIx → PageIx → Bool} {R : PageIx → PageIx → Prop}
    {f : Option PageIx → PageIx → Option PageIx} (start : ∀ p, f none p = some p)
    (step : ∀ b p, f (some b) p = if better p b = true then some p else some b) (refl : ∀ p, R p p)
    (takes : ∀ p q r, better p q = true → R q r → R p r) {xs : List PageIx}
    (ordered : xs.Pairwise (fun q p => better p q = false → R q p)) :
    (xs.foldl f none = none → xs = []) ∧ ∀ r, xs.foldl f none = some r → r ∈ xs ∧ ∀ q ∈ xs, R r q := by
  cases xs with
  | nil => simp
  | cons b rest =>
    rw [List.foldl_cons, start]
    obtain ⟨r, picked, member, best, all⟩ := foldl_pick step refl takes rest b ordered
    rw [picked]
    refine ⟨fun h => by simp at h, fun x h => ?_⟩
    obtain rfl := Option.some.inj h
    exact ⟨List.mem_cons.2 member, List.forall_mem_cons.2 ⟨best b (refl b), all⟩⟩

theorem mem_allPages (p : PageIx) : p ∈ allPages := List.mem_finRange p

/-! ### The page a switch opens -/

/-- p is worn no more than q, and comes before it where they are worn alike. -/
def State.lessWorn (s : State) (p q : PageIx) : Prop :=
  (s.page p).eraseCount < (s.page q).eraseCount ∨ ((s.page p).eraseCount = (s.page q).eraseCount ∧ p ≤ q)

theorem State.leastWorn_spec (s : State) : (s.leastWorn = none → ∀ q, (s.page q).state ≠ .erased) ∧
    ∀ p, s.leastWorn = some p → (s.page p).state = .erased ∧ ∀ q, (s.page q).state = .erased → s.lessWorn p q := by
  have picks := foldl_pick_none (better := fun p q => decide ((s.page p).eraseCount < (s.page q).eraseCount))
    (R := s.lessWorn) (xs := s.pagesIn .erased)
    (f := fun best p => match best with
      | none => some p
      | some q => if (s.page p).eraseCount < (s.page q).eraseCount then some p else some q)
    (fun p => rfl) (fun b p => by simp) (fun p => .inr ⟨rfl, le_rfl⟩)
    (fun p q r less h => by
      have less := of_decide_eq_true less
      unfold State.lessWorn at *
      omega)
    ((s.pagesIn_sorted .erased).imp fun {q p} before notLess => by
      have notLess := Nat.not_lt.1 (of_decide_eq_false notLess)
      exact (Nat.lt_or_eq_of_le notLess).imp_right fun same => ⟨same, before.le⟩)
  refine ⟨fun h q erased => ?_, fun p h => ?_⟩
  · have empty := picks.1 h
    have member := State.mem_pagesIn.2 erased
    rw [empty] at member
    exact absurd member (by simp)
  · obtain ⟨member, best⟩ := picks.2 p h
    exact ⟨State.mem_pagesIn.1 member, fun q erased => best q (State.mem_pagesIn.2 erased)⟩

/-! ### The victim -/

/-- p has more dead cells than q, or as many and no higher sequence number. -/
def State.deader (s : State) (p q : PageIx) : Prop :=
  deadCells (s.page q) < deadCells (s.page p) ∨ (deadCells (s.page q) = deadCells (s.page p) ∧
    (s.page p).sequence.getD 0 ≤ (s.page q).sequence.getD 0)

theorem State.eligibleVictim_iff (s : State) (p : PageIx) : s.eligibleVictim p = true ↔
    (s.page p).state = .sealed ∧ 1 ≤ deadCells (s.page p) ∧ ∀ r, s.executorRun = some r → r.page ≠ p := by
  simp [State.eligibleVictim, State.runOn, Option.any_eq_false, and_assoc]

theorem State.bestVictim_spec (s : State) : (s.bestVictim = none → ∀ q, ¬s.eligibleVictim q = true) ∧
    ∀ p, s.bestVictim = some p → s.eligibleVictim p = true ∧ ∀ q, s.eligibleVictim q = true → s.deader p q := by
  have eligible (q : PageIx) : q ∈ allPages.filter s.eligibleVictim ↔ s.eligibleVictim q = true := by
    simp [mem_allPages]
  have picks := foldl_pick_none (better := s.betterVictim) (R := s.deader) (xs := allPages.filter s.eligibleVictim)
    (f := fun best p => match best with
      | none => some p
      | some q => if s.betterVictim p q then some p else some q)
    (fun p => rfl) (fun b p => rfl) (fun p => .inr ⟨rfl, le_rfl⟩)
    (fun p q r better h => by
      have better := of_decide_eq_true better
      unfold State.deader at *
      omega)
    (List.Pairwise.imp_of_mem (fun {q p} _ _ _ worse => by
      have worse := of_decide_eq_false worse
      unfold State.deader
      omega) (List.pairwise_of_forall (fun _ _ => trivial)))
  refine ⟨fun h q ok => ?_, fun p h => ?_⟩
  · have member := (eligible q).2 ok
    rw [picks.1 h] at member
    exact absurd member (by simp)
  · obtain ⟨member, best⟩ := picks.2 p h
    exact ⟨(eligible p).1 member, fun q ok => best q ((eligible q).2 ok)⟩

/-- Settles O52: the fold over the eligible pages keeps the one with the most dead cells. -/
theorem victimHasTheMostDeadCells : Obligations.VictimHasTheMostDeadCells := by
  intro s dead eligible
  obtain ⟨nobody, best⟩ := s.bestVictim_spec
  refine ⟨fun p picked => ?_, fun h q ok => nobody h q ((s.eligibleVictim_iff q).2 ok)⟩
  obtain ⟨ok, all⟩ := best p picked
  exact ⟨(s.eligibleVictim_iff p).1 ok, fun q other => all q ((s.eligibleVictim_iff q).2 other)⟩

/-! ### What a notice and the end of a run leave -/

theorem State.sendNotice_eq (s : State) (f : Frame) : ∃ l u, s.sendNotice f = { s with link := l, notices := u } := by
  unfold State.sendNotice
  split
  · exact ⟨_, s.notices, rfl⟩
  · exact ⟨_, _, rfl⟩

/-- A notice changes the link and the notice unit alone. -/
theorem State.raise_eq (s : State) (content : NoticeContent) :
    ∃ l u, s.raise content = { s with link := l, notices := u } := by
  unfold State.raise
  split
  · exact ⟨s.link, _, rfl⟩
  · obtain ⟨l, u, e⟩ := State.sendNotice_eq (State.dropUnsent { s with notices := _ } _) _
    exact ⟨l, u, e⟩

/-- The end of a run changes the engine, its request, the link and the notice unit alone (R119). -/
theorem State.endRun_eq (s : State) : ∃ l u, s.endRun = { s with
    link := l
    notices := u
    compaction := { s.compaction.noVictim with phase := .idle, runVictims := 0, runReclaimed := 0 }
    array := { s.array with compactionRequest := none } } := by
  unfold State.endRun
  dsimp only
  split
  · obtain ⟨l, u, e⟩ := State.raise_eq (State.request { s with
      compaction := { s.compaction.noVictim with phase := .idle, runVictims := 0, runReclaimed := 0 } } .compaction none)
      (.compacted s.compaction.runVictims s.compaction.runReclaimed s.erasedCount)
    exact ⟨l, u, e⟩
  · exact ⟨_, _, rfl⟩

/-- The store state, the next sequence number and the operation in flight. -/
def State.switchParts (s : State) : StoreState × Option Nat × Option ArrayOp :=
  (s.store, s.array.nextSequence, s.array.inFlight.map Flight.op)

theorem State.endRun_switchParts (s : State) : s.endRun.switchParts = s.switchParts := by
  obtain ⟨l, u, e⟩ := s.endRun_eq
  rw [e]
  rfl

theorem State.disown_switchParts (s : State) (who : Requester) : (s.disown who).switchParts = s.switchParts := by
  unfold State.disown
  split
  · split
    · simp [State.switchParts, *]
    · rfl
  · rfl

theorem State.leaveVictim_some {v : PageIx} (victim : s.compaction.victim = some v) : s.leaveVictim =
    { (s.setPage v { s.page v with state := .sealed }).faultRunIfAny s.compaction.run with
      compaction := { s.compaction with run := none } } := by
  rw [State.leaveVictim, victim]
  cases run : s.compaction.run with
  | none => simp [State.faultRunIfAny, run]
  | some r => simp [State.faultRunIfAny, run, State.faultRun]

theorem State.leaveVictim_none (victim : s.compaction.victim = none) : s.leaveVictim =
    { s.faultRunIfAny s.compaction.run with compaction := { s.compaction with run := none } } := by
  rw [State.leaveVictim, victim]
  cases run : s.compaction.run with
  | none => rfl
  | some r => rfl

theorem State.leaveVictim_switchParts (s : State) : s.leaveVictim.switchParts = s.switchParts := by
  cases victim : s.compaction.victim with
  | none =>
    rw [State.leaveVictim_none victim]
    cases s.compaction.run <;> rfl
  | some v =>
    rw [State.leaveVictim_some victim]
    cases s.compaction.run <;> rfl

theorem State.stopEngine_switchParts (s : State) : s.stopEngine.switchParts = s.switchParts := by
  unfold State.stopEngine
  split
  · rfl
  · exact (State.endRun_switchParts _).trans (s.disown_switchParts .compaction)
  · split
    · rfl
    · exact (State.endRun_switchParts _).trans s.leaveVictim_switchParts
  · rfl
  · rfl

/-! ### The switch -/

/-- The demand set with the store not READY only stands. -/
theorem State.setDemand_notReady (h : s.store ≠ .ready) :
    s.setDemand = { s with compaction := { s.compaction with automaticDemand := true } } :=
  if_neg (fun begins => h begins.2.1)

/-- The OPEN page sealed, the page p opened with a sequence number, and its open header in flight (R91). -/
theorem State.openFor_eq (s : State) (who : Requester) (p : PageIx) (n : Nat) : s.openFor who p n = { s with array :=
    { s.array with
      table := (match s.openPage with
        | some q => s.array.table.set q { s.page q with state := .sealed }
        | none => s.array.table).set p
          { state := .opened, eraseCount := (s.page p).eraseCount, sequence := some n, used := 2, live := 0 }
      appendPoint := some 2
      inFlight := some { owner := some who, op := .openHeader p (openHeader n) } } } := by
  have worn : (s.sealOpenPage.page p).eraseCount = (s.page p).eraseCount := by
    unfold State.sealOpenPage
    split
    · rfl
    · next q opened =>
      change ((s.setPage q { s.page q with state := .sealed }).page p).eraseCount = _
      rw [State.page_setPage]
      split
      · next same => rw [← same]
      · rfl
  unfold State.openFor
  dsimp only
  rw [worn]
  unfold State.sealOpenPage
  cases s.openPage <;> rfl

/-- With the store not READY low water only sets the demand. -/
theorem State.lowWater_notReady (h : s.store ≠ .ready) : s.lowWater =
    if s.erasedCount ≤ 4 then { s with compaction := { s.compaction with automaticDemand := true } } else s := by
  rw [State.lowWater, State.setDemand_notReady h]

theorem State.lowWater_switchParts (h : s.store ≠ .ready) : s.lowWater.switchParts = s.switchParts := by
  rw [State.lowWater_notReady h]
  split <;> rfl

theorem State.pageSwitch_made {who : Requester} {p : PageIx} {n : Nat} (least : s.leastWorn = some p)
    (next : s.array.nextSequence = some n) : s.pageSwitch who = some (s.switchTo who p n) := by
  rw [State.pageSwitch, next, least]

/-- Settles O44: the page opened, the demand at low water, and the exhaustion of the sequence numbers. -/
theorem pageSwitchOpensTheLeastWorn : Obligations.PageSwitchOpensTheLeastWorn := by
  refine ⟨fun s p least => s.leastWorn_spec.2 p least, fun s none => ⟨s.leastWorn_spec.1 none, fun who => ?_⟩,
    fun s exhausted who => ?_, ?_⟩
  · rw [State.pageSwitch, none]
    cases s.array.nextSequence <;> rfl
  · rw [State.pageSwitch, exhausted]
  · intro who s p n least next bound sealed t demanded
    have made := State.pageSwitch_made (who := who) least next
    have opened := s.openFor_eq who p n
    refine ⟨fun below => ?_, fun last => ?_⟩
    · have spent : (s.openFor who p n).spendSequence n = t := by
        rw [State.spendSequence, if_pos (by exact below), opened]
        simp only [t, if_pos below]
        rfl
      have switched : s.switchTo who p n = t.lowWater := congrArg State.lowWater spent
      rw [made, switched]
      refine ⟨fun high => congrArg some (if_neg (Nat.not_le.2 high)), fun low => ⟨_, rfl, ?_⟩⟩
      rw [State.lowWater, if_pos low]
      exact setDemand_demands t
    · have exhausts (ready : s.store = .ready) :
          s.switchTo who p n = (State.stopEngine { t with store := .readOnly }).lowWater := by
        refine congrArg State.lowWater ?_
        rw [State.spendSequence, if_neg (by simp [Config.maxWord, last]), opened]
        simp only [State.becomeReadOnly, State.markReadOnly, ready, t]
        rw [if_neg (by simp [last])] <;> rfl
      let u : State := { t with store := .readOnly }
      have stopped := State.stopEngine_switchParts u
      have notReady : u.stopEngine.store ≠ .ready := by
        rw [show u.stopEngine.store = .readOnly from congrArg Prod.fst stopped]
        decide
      have parts : u.stopEngine.lowWater.switchParts = (.readOnly, none, some (.openHeader p (openHeader n))) := by
        rw [State.lowWater_switchParts notReady, stopped]
        simp [State.switchParts, u, t, last]
      obtain ⟨store, sequence, flight⟩ : _ ∧ _ ∧ _ := by simpa only [State.switchParts, Prod.mk.injEq] using parts
      refine ⟨fun ready => ⟨_, made.trans (congrArg some (exhausts ready)), store, sequence, flight⟩,
        fun ready phase => ?_⟩
      have goesOn : u.stopEngine = u := by
        have phase : u.compaction.phase = .idle ∨ u.compaction.phase = .release ∨ u.compaction.phase = .erase := phase
        rcases phase with h | h | h <;> rw [State.stopEngine, h]
      rw [made, exhausts ready, goesOn, State.lowWater_notReady (by simp [u])]

end Sys2Proof.Machine
end

section
/-! Completions of the commit's programs (R49 to R53, R58): what a cell program lands, and how the commit goes on. -/

namespace Sys2Proof.Machine

variable {s : State}

/-! ### A cell program lands -/

/-- s with the cell of a completed program holding its content, and its page's used cells up to a limit. -/
def State.landedAt (s : State) (p : PageIx) (cell : Nat) (content : CellContent) (limit : Nat) : State :=
  { s with array := { s.array with
    inFlight := none
    cells := s.array.cells.write (cellAddress p cell) content
    table := s.array.table.set p { s.page p with used := max (s.page p).used limit } } }

theorem exec_programComplete (running : s.restarting = none) {owner : Option Requester} {p : PageIx} {cell : Nat} {w : CellWord}
    (flight : s.array.inFlight = some { owner, op := .program p cell w }) (outcome : ArrayOutcome) :
    exec (.programComplete outcome) s
      = .next ((s.landedAt p cell (landedContent w outcome) (cell + 1)).cellDone owner outcome).runExecutor := by
  change execProgramComplete outcome s = _
  rw [execProgramComplete, flight]
  exact congrArg Host.Outcome.next (if_pos (by simp [running, State.landed]))

/-- A cell program's completion whose work leaves the executor nothing to take. -/
theorem exec_programCompleted (running : s.restarting = none) {owner : Option Requester} {p : PageIx} {cell : Nat} {w : CellWord}
    (flight : s.array.inFlight = some { owner, op := .program p cell w }) {outcome : ArrayOutcome} {t : State}
    (done : (s.landedAt p cell (landedContent w outcome) (cell + 1)).cellDone owner outcome = t) (nothing : t.nothingToTake) :
    exec (.programComplete outcome) s = .next t := by
  rw [exec_programComplete running flight, done, State.runExecutor_nothing nothing]

theorem State.setPage_setPage (s : State) (p : PageIx) (a b : PageRec) : (s.setPage p a).setPage p b = s.setPage p b := by
  simp [State.setPage]

theorem State.landedAt_page (s : State) (p : PageIx) (cell : Nat) (content : CellContent) (limit : Nat) (q : PageIx) :
    (s.landedAt p cell content limit).page q
      = if p = q then { s.page p with used := max (s.page p).used limit } else s.page q :=
  State.page_setPage s p q _

/-- The used cells rise twice to the higher limit. -/
theorem State.landedAt_raiseUsed (s : State) (p : PageIx) (cell : Nat) (content : CellContent) (m n : Nat) :
    (s.landedAt p cell content m).raiseUsed p n = s.landedAt p cell content (max m n) := by
  unfold State.raiseUsed
  rw [State.landedAt_page, if_pos rfl]
  simp [State.setPage, State.landedAt, max_assoc]

/-- A run that ends at a completion joins the faulted runs of its page. -/
theorem State.landedAt_faultRun (s : State) (run : Run) (cell : Nat) (content : CellContent) (m : Nat) :
    let t := s.landedAt run.page cell content (max m (run.first + run.words.length))
    (s.landedAt run.page cell content m).faultRun run = { t with array := { t.array with
      faulted := s.array.faulted ++ [{ page := run.page, first := run.first, count := run.words.length }] } } := by
  intro t
  rw [State.faultRun, State.landedAt_raiseUsed]
  rfl

/-- The OPEN page by the states of the pages alone. -/
theorem State.openPage_congr {t : State} (h : ∀ p, (t.page p).state = (s.page p).state) : t.openPage = s.openPage := by
  simp only [State.openPage, State.pagesIn, h]

theorem State.landedAt_openPage (s : State) (p : PageIx) (cell : Nat) (content : CellContent) (limit : Nat) :
    (s.landedAt p cell content limit).openPage = s.openPage := by
  refine State.openPage_congr fun q => ?_
  rw [State.landedAt_page]
  split
  · next same => rw [← same]
  · rfl

/-- The OPEN page sealed, where there is one. -/
theorem State.sealOpenPage_eq (s : State) : s.sealOpenPage = { s with array := match s.openPage with
    | none => s.array
    | some p => { s.array with
      appendPoint := none, table := s.array.table.set p { s.array.table.get p with state := .sealed } } } := by
  unfold State.sealOpenPage
  cases s.openPage <;> rfl

/-! ### The commit's next step -/

theorem State.cellDone_commit {c : CommitRecord} {p : PageIx} {cell limit : Nat} {content : CellContent}
    (commit : s.executor.commit = some c) (outcome : ArrayOutcome) :
    (s.landedAt p cell content limit).cellDone (some .executor) outcome
      = (s.landedAt p cell content limit).commitCellDone c outcome := by
  simp [State.cellDone, State.landedAt, commit]

section
variable {c : CommitRecord} {run : Run} (inRun : c.run = some run)
include inRun

theorem State.commitCellDone_inside (state : s.txn.state = .committing) (short : run.done + 1 < run.words.length) :
    s.commitCellDone c .ok = s.continueCommit { c with run := some { run with done := run.done + 1 } } := by
  simp [State.commitCellDone, inRun, state, Nat.not_le.2 short]

theorem State.commitCellDone_whole (state : s.txn.state = .committing) (last : run.words.length = run.done + 1) :
    s.commitCellDone c .ok = s.attemptDone c { run with done := run.done + 1 } := by
  simp [State.commitCellDone, inRun, state, last]

theorem State.commitCellDone_again (state : s.txn.state = .committing) (few : c.countFailure.2 < 3) :
    s.commitCellDone c .verifyFail = (s.faultRun run).continueCommit { c.countFailure.1 with run := none } := by
  simp [State.commitCellDone, inRun, state, few]

theorem State.commitCellDone_exhausts (state : s.txn.state = .committing) (third : c.countFailure.2 = 3) :
    s.commitCellDone c .verifyFail = (s.faultRun run).exhaustCommit run.page := by
  simp [State.commitCellDone, inRun, state, third]

theorem State.commitCellDone_stops (state : s.txn.state ≠ .committing) (outcome : ArrayOutcome) :
    s.commitCellDone c outcome = State.stopAbandoned
      (if run.words.length ≤ run.done + 1 ∧ outcome = .ok then s else s.faultRun run) := by
  cases txn : s.txn.state with
  | committing => exact absurd txn state
  | none => simp [State.commitCellDone, inRun, txn]
  | opened => simp [State.commitCellDone, inRun, txn]

end

theorem CommitRecord.countFailure_item {c : CommitRecord} {i : Nat} {item : CommitItem}
    (target : c.target = .entry i ∨ c.target = .relocate i) (at' : c.items[i]? = some item) : c.countFailure
      = ({ c with items := c.items.set i { item with failures := item.failures + 1 } }, item.failures + 1) := by
  obtain ⟨inside, here⟩ := List.getElem?_eq_some_iff.1 at'
  rcases target with target | target <;>
    simp [CommitRecord.countFailure, target, at', List.modify_eq_set_getElem?]

theorem CommitRecord.countFailure_marker {c : CommitRecord} (target : c.target = .marker) :
    c.countFailure = ({ c with markerFailures := c.markerFailures + 1 }, c.markerFailures + 1) := by
  simp [CommitRecord.countFailure, target]

/-- The target of an entry placed or relocated now. -/
theorem CommitRecord.target_item {c : CommitRecord} {i : Nat} {item : CommitItem}
    (placing : c.relocate = [] ∧ i = c.position ∨ ∃ more, c.relocate = i :: more) (at' : c.items[i]? = some item) :
    c.target = .entry i ∨ c.target = .relocate i := by
  rcases placing with ⟨relocate, rfl⟩ | ⟨more, relocate⟩
  · exact .inl (CommitRecord.target_entry relocate (List.getElem?_eq_some_iff.1 at').1)
  · exact .inr (CommitRecord.target_relocate relocate)

theorem State.attemptDone_entry {c : CommitRecord} (relocate : c.relocate = []) {item : CommitItem}
    (at' : c.items[c.position]? = some item) (r : Run) : s.attemptDone c r = s.continueCommit { c with
      run := none, position := c.position + 1
      items := c.items.set c.position { item with final := some { page := r.page, cell := r.first }, finalStands := true }
      stage := if c.position + 1 < c.items.length then .programming else .marking } := by
  have target : ({ c with run := none } : CommitRecord).target = .entry c.position :=
    CommitRecord.target_entry relocate (List.getElem?_eq_some_iff.1 at').1
  simp [State.attemptDone, target, List.modify_eq_set_getElem?, at']

theorem State.attemptDone_relocate {c : CommitRecord} {i : Nat} {more : List Nat} (relocate : c.relocate = i :: more)
    {item : CommitItem} {op : StagedOp} {old : Loc} (at' : c.items[i]? = some item) (staged : s.txn.staging[i]? = some op)
    (final : item.final = some old) (r : Run) : s.attemptDone c r = s.continueCommit { c with
      run := none, relocate := more
      items := c.items.set i { item with final := some { page := r.page, cell := r.first }, finalStands := true }
      copies := c.copies ++ if item.finalStands then [(opIdent op, old)] else [] } := by
  have target : ({ c with run := none } : CommitRecord).target = .relocate i := CommitRecord.target_relocate relocate
  have rest : c.relocate.drop 1 = more := by simp [relocate]
  simp [State.attemptDone, target, List.modify_eq_set_getElem?, at', staged, final, rest]

/-- What is left before MEDIA is raised: the commit's record gone, the OPEN page sealed, the transaction over (R53). -/
theorem State.exhaustCommit_left (t : State) : ((t.dropCommit).sealOpenPage).endTxn = { t with
    array := match t.openPage with
      | none => { t.array with executorRequest := none }
      | some p => { t.array with
        executorRequest := none, appendPoint := none
        table := t.array.table.set p { t.array.table.get p with state := .sealed } }
    txn := { t.txn with state := .none, number := none, idleRunning := false, staging := [] }
    executor := { t.executor with commit := none } } := by
  have same : t.dropCommit.openPage = t.openPage := rfl
  rw [State.sealOpenPage_eq, same]
  cases t.openPage <;> rfl

theorem State.faultRun_openPage (s : State) (run : Run) : (s.faultRun run).openPage = s.openPage := by
  refine State.openPage_congr fun q => ?_
  change ((s.raiseUsed run.page (run.first + run.words.length)).page q).state = _
  rw [State.raiseUsed, State.page_setPage]
  split
  · next same => rw [← same]
  · rfl

/-- Settles O43: the next cell, the next entry, a relocation, a further attempt, the third failure, and the end after an
ABANDON. -/
theorem commitAttemptsComplete : Obligations.CommitAttemptsComplete := by
  intro c run r w s flight running executing commit inRun cell used wrote goesOn good faulted loc last
  let landed (outcome : ArrayOutcome) : State :=
    s.landedAt run.page (run.first + run.done) (landedContent w outcome) (run.first + run.done + 1)
  have completes {outcome : ArrayOutcome} {t : State} (done : (landed outcome).commitCellDone c outcome = t)
      (nothing : t.nothingToTake) : exec (.programComplete outcome) s = .next t := by
    refine exec_programCompleted running flight ?_ nothing
    rw [← done]
    exact State.cellDone_commit commit outcome
  have busy {t : State} (still : t.executor.executing = some r) : t.nothingToTake := .inl (by simp [still])
  have failed : (landed .verifyFail).faultRun run = { s with array := { faulted with executorRequest := s.array.executorRequest } } :=
    State.landedAt_faultRun ..
  refine ⟨fun state => ⟨fun short => ?inside, fun item whole relocate at' => ?entry,
    fun i more item op old whole relocate at' staged final => ?relocation, fun i item placing at' few => ?again,
    fun relocate position few => ?markerAgain, fun third => ?exhausts⟩, fun state finishes => ?stopped⟩
  case inside => exact completes (State.commitCellDone_inside inRun state short) (busy executing)
  case entry =>
    exact completes ((State.commitCellDone_whole (s := landed .ok) inRun state whole).trans
      (State.attemptDone_entry relocate at' _)) (busy executing)
  case relocation =>
    exact completes ((State.commitCellDone_whole (s := landed .ok) inRun state whole).trans
      (State.attemptDone_relocate (s := landed .ok) relocate at' staged final _)) (busy executing)
  case again =>
    have counted := CommitRecord.countFailure_item (CommitRecord.target_item placing at') at'
    have goes := State.commitCellDone_again (s := landed .verifyFail) inRun state (by rw [counted]; exact few)
    rw [counted, failed] at goes
    exact completes goes (busy executing)
  case markerAgain =>
    have counted := CommitRecord.countFailure_marker (CommitRecord.target_marker relocate position)
    have goes := State.commitCellDone_again (s := landed .verifyFail) inRun state (by rw [counted]; exact few)
    rw [counted, failed] at goes
    exact completes goes (busy executing)
  case exhausts =>
    intro ended finishes
    have counted : c.countFailure.2 = 3 := by
      rcases third with ⟨relocate, position, two⟩ | ⟨i, item, at', two, placing⟩
      · rw [CommitRecord.countFailure_marker (CommitRecord.target_marker relocate position), two]
      · rw [CommitRecord.countFailure_item (CommitRecord.target_item placing at') at', two]
    have goes := State.commitCellDone_exhausts (s := landed .verifyFail) inRun state counted
    have opened : ((landed .verifyFail).faultRun run).openPage = s.openPage :=
      (State.faultRun_openPage _ run).trans (State.landedAt_openPage ..)
    have left : (((((landed .verifyFail).faultRun run).dropCommit).sealOpenPage).endTxn).raise
        (.media run.page .programRetriesExhausted) = ended := by
      refine congrArg (State.raise · _) ((State.exhaustCommit_left _).trans ?_)
      rw [opened, failed] <;> cases s.openPage <;> rfl
    rw [State.exhaustCommit, left, State.reply_room finishes.2.1 finishes.txRoom] at goes
    exact completes goes (State.nothingToTake_queue finishes.2.2.1)
  case stopped =>
    intro stopped
    have stops (a : ArrayState) : State.stopAbandoned { s with array := a } = stopped a :=
      State.reply_room (s := { s with
        array := { a with executorRequest := none }, executor := { s.executor with commit := none } })
        executing finishes.txRoom _
    have ends {outcome : ArrayOutcome} {a : ArrayState}
        (left : (if run.words.length ≤ run.done + 1 ∧ outcome = .ok then landed outcome
          else (landed outcome).faultRun run) = { s with array := a }) :
        exec (.programComplete outcome) s = .next (stopped a) := by
      refine completes ?_ (State.nothingToTake_queue finishes.2.2.1)
      rw [State.commitCellDone_stops (s := landed outcome) inRun state, left, stops]
    refine ⟨fun whole => ?_, fun short => ?_, ?_⟩
    · exact ends (a := { good with executorRequest := s.array.executorRequest }) (if_pos ⟨whole.le, rfl⟩)
    · exact ends (a := { faulted with cells := good.cells, executorRequest := s.array.executorRequest })
        ((if_neg (fun h => absurd h.1 (Nat.not_le.2 short))).trans (State.landedAt_faultRun ..))
    · exact ends (a := { faulted with executorRequest := s.array.executorRequest })
        ((if_neg (fun h => absurd h.2 (by decide))).trans failed)

end Sys2Proof.Machine
end

section
/-! Completions by what they land (R84 to R87, R91, R93): the cells of a program, of an open header and of an erase, and the
requester of a page switch going on. -/

namespace Sys2Proof.Machine

variable {s : State}

/-! ### What a completion leaves in the cells -/

/-- What follows a landing leaves the cells as landed. -/
theorem Steady.cells_kept {t u : State} (h : Steady t u) : u.array.cells = t.array.cells := h.cells

theorem exec_programComplete_restarting (restarting : s.restarting ≠ none) {owner : Option Requester} {p : PageIx} {cell : Nat}
    {w : CellWord} (flight : s.array.inFlight = some { owner, op := .program p cell w }) (outcome : ArrayOutcome) :
    exec (.programComplete outcome) s = .next (s.landedAt p cell (landedContent w outcome) (cell + 1)) := by
  change execProgramComplete outcome s = _
  rw [execProgramComplete, flight]
  exact congrArg Host.Outcome.next (if_neg (by simpa [State.landed, Option.isNone_iff_eq_none] using restarting))

/-- A cell program's completion changes its own cell alone. -/
theorem exec_programComplete_cells {owner : Option Requester} {p : PageIx} {cell : Nat} {w : CellWord}
    (flight : s.array.inFlight = some { owner, op := .program p cell w }) (outcome : ArrayOutcome) :
    ∃ t, exec (.programComplete outcome) s = .next t ∧
      t.array.cells = s.array.cells.write (cellAddress p cell) (landedContent w outcome) := by
  by_cases running : s.restarting = none
  · refine ⟨_, exec_programComplete running flight outcome, ?_⟩
    exact (((Steady.refl (s.landedAt p cell (landedContent w outcome) (cell + 1))).cellDone owner outcome).runExecutor).cells
  · exact ⟨_, exec_programComplete_restarting running flight outcome, rfl⟩

theorem exec_eraseComplete (running : s.restarting = none) {owner : Option Requester} {p : PageIx} {count : Nat}
    (flight : s.array.inFlight = some { owner, op := .erase p count }) (outcome : ArrayOutcome) :
    exec (.eraseComplete outcome) s
      = .next ((s.landed.landErase p count outcome).eraseDone owner p count outcome).runExecutor := by
  change execEraseComplete outcome s = _
  rw [execEraseComplete, flight]
  exact congrArg Host.Outcome.next (if_pos (by simp [running, State.landed]))

theorem exec_eraseComplete_restarting (restarting : s.restarting ≠ none) {owner : Option Requester} {p : PageIx} {count : Nat}
    (flight : s.array.inFlight = some { owner, op := .erase p count }) (outcome : ArrayOutcome) :
    exec (.eraseComplete outcome) s = .next (s.landed.landErase p count outcome) := by
  change execEraseComplete outcome s = _
  rw [execEraseComplete, flight]
  exact congrArg Host.Outcome.next (if_neg (by simpa [State.landed, Option.isNone_iff_eq_none] using restarting))

/-- An erase's completion leaves what it has landed in the cells. -/
theorem exec_eraseComplete_cells {owner : Option Requester} {p : PageIx} {count : Nat}
    (flight : s.array.inFlight = some { owner, op := .erase p count }) (outcome : ArrayOutcome) :
    ∃ t, exec (.eraseComplete outcome) s = .next t ∧
      t.array.cells = (s.landed.landErase p count outcome).array.cells ∧
      (s.restarting ≠ none → t = s.landed.landErase p count outcome) := by
  by_cases running : s.restarting = none
  · refine ⟨_, exec_eraseComplete running flight outcome, ?_, fun restarting => absurd running restarting⟩
    exact (((Steady.refl (s.landed.landErase p count outcome)).eraseDone owner p count outcome).runExecutor).cells
  · exact ⟨_, exec_eraseComplete_restarting running flight outcome, rfl, fun _ => rfl⟩

theorem cellAddress_page (p : PageIx) {cell : Nat} (inside : cell ≤ 127) : cellAddress p cell / 128 = p.val := by
  unfold cellAddress
  omega

/-- The cells of a page erased: blank but for the wear header, or indeterminate, and no other page's changed (R86). -/
theorem State.landErase_cells (wf : s.array.cells.wf = true) (p : PageIx) (count : Nat) :
    ((s.landed.landErase p count .ok).array.cells.read (cellAddress p 0) = .word (wearHeader count) ∧
      ∀ cell, 1 ≤ cell → cell ≤ 127 →
        (s.landed.landErase p count .ok).array.cells.read (cellAddress p cell) = .word blankCell) ∧
    (∀ cell, cell ≤ 127 → (s.landed.landErase p count .verifyFail).array.cells.read (cellAddress p cell) = .indeterminate) ∧
    ∀ outcome a, a / 128 ≠ p.val → (s.landed.landErase p count outcome).array.cells.read a = s.array.cells.read a := by
  have cleared : (s.array.cells.clearPage p).wf = true := Memory.clearPage_wf wf
  have erased (a : Nat) : (s.landed.landErase p count .ok).array.cells.read a =
      if a = cellAddress p 0 then .word (wearHeader count) else if a / 128 = p.val then blankContent else s.array.cells.read a :=
    (Memory.read_write cleared).trans (if_congr Iff.rfl rfl Memory.read_clearPage)
  have spoiled (a : Nat) : (s.landed.landErase p count .verifyFail).array.cells.read a =
      if a / 128 = p.val then .indeterminate else s.array.cells.read a := by
    have cells : (s.landed.landErase p count .verifyFail).array.cells = s.landed.array.cells.spoilPage p := by
      simp only [State.landErase]
    rw [cells, Memory.read_spoilPage (m := s.landed.array.cells) wf, State.landed]
  refine ⟨⟨by rw [erased, if_pos rfl], fun cell low high => ?_⟩, fun cell high => ?_, fun outcome a other => ?_⟩
  · rw [erased, if_neg (by unfold cellAddress; omega), if_pos (cellAddress_page p high)]
    rfl
  · rw [spoiled, if_pos (cellAddress_page p high)]
  · cases outcome
    · rw [erased, if_neg (fun here : a = cellAddress p 0 => other (here ▸ cellAddress_page p (by omega))), if_neg other]
    · rw [spoiled, if_neg other]

/-! ### The open header of a page switch -/

theorem exec_headerComplete (running : s.restarting = none) {owner : Option Requester} {p : PageIx} {w : CellWord}
    (flight : s.array.inFlight = some { owner, op := .openHeader p w }) (outcome : ArrayOutcome) :
    exec (.programComplete outcome) s = .next ((s.landed.landHeader p w outcome).headerDone owner).runExecutor := by
  change execProgramComplete outcome s = _
  rw [execProgramComplete, flight]
  exact congrArg Host.Outcome.next (if_pos (by cases outcome <;> simp [running, State.landed, State.landHeader]))

/-- An open header's completion whose requester leaves the executor nothing to take. -/
theorem exec_headerCompleted (running : s.restarting = none) {owner : Option Requester} {p : PageIx} {w : CellWord}
    (flight : s.array.inFlight = some { owner, op := .openHeader p w }) {outcome : ArrayOutcome} {landed : ArrayState}
    (lands : (s.landed.landHeader p w outcome) = { s with array := landed }) {t : State}
    (done : State.headerDone { s with array := landed } owner = t) (nothing : t.nothingToTake) :
    exec (.programComplete outcome) s = .next t := by
  rw [exec_headerComplete running flight, lands, done, State.runExecutor_nothing nothing]

theorem State.headerDone_commit {c : CommitRecord} (commit : s.executor.commit = some c) :
    s.headerDone (some .executor) = s.commitHeaderDone c := by
  simp [State.headerDone, commit]

/-- The commit, the increment or the FORMAT that asked for the switch requests its next program. -/
theorem State.headerDone_goesOn (work : (s.executor.commit ≠ none ∧ s.txn.state = .committing) ∨
    (s.executor.commit = none ∧ (s.executor.increment ≠ none ∨ s.executor.format ≠ none))) :
    s.headerDone (some .executor) = s.request .executor (some .program) := by
  cases commit : s.executor.commit with
  | some c =>
    have state : s.txn.state = .committing := by simpa [commit] using work
    have same : s.setCommit (some c) = s := by rw [State.setCommit, ← commit]
    rw [State.headerDone_commit commit, State.commitHeaderDone, state]
    exact congrArg (State.request · .executor (some .program)) same
  | none =>
    cases increment : s.executor.increment with
    | some i =>
      have same : s.setIncrement (some i) = s := by rw [State.setIncrement, ← increment]
      simp only [State.headerDone, commit, increment]
      exact congrArg (State.request · .executor (some .program)) same
    | none =>
      obtain ⟨f, format⟩ := Option.ne_none_iff_exists'.1 (show s.executor.format ≠ none by simpa [commit, increment] using work)
      simp [State.headerDone, commit, increment, format, State.formatHeaderDone]

theorem State.commitHeaderDone_stops (c : CommitRecord) (state : s.txn.state ≠ .committing) :
    s.commitHeaderDone c = s.stopAbandoned := by
  cases txn : s.txn.state with
  | committing => exact absurd txn state
  | none => simp [State.commitHeaderDone, txn]
  | opened => simp [State.commitHeaderDone, txn]

theorem State.stopAbandoned_room {r : Request} (executing : s.executor.executing = some r) (room : s.txRoom = true) :
    s.stopAbandoned = State.answered { s with
      array := { s.array with executorRequest := none }, executor := { s.executor with commit := none } } r [0x40] :=
  State.reply_room (s := { s with
    array := { s.array with executorRequest := none }, executor := { s.executor with commit := none } }) executing room _

/-! ### The engine's open header -/

/-- The end of a run forgets what the engine has asked for. -/
theorem endRun_withEngine (s : State) (c : Compaction) (ask : Option RequestOp) :
    (s.withEngine c ask).endRun = (s.withEngine c none).endRun := rfl

/-- What the engine has asked for does not matter to what it chooses. -/
theorem choose_withEngine (s : State) (c : Compaction) (ask : Option RequestOp) :
    (s.withEngine c ask).choose = (s.withEngine c none).choose := by
  have ends (k : NoticeContent) (d : Compaction) :
      ((s.withEngine d ask).raise k).endRun = ((s.withEngine d none).raise k).endRun := by
    rw [raise_withEngine, raise_withEngine, endRun_withEngine]
  have best : (s.withEngine c ask).bestVictim = (s.withEngine c none).bestVictim := rfl
  unfold State.choose
  rw [best]
  cases (s.withEngine c none).bestVictim with
  | some p => rfl
  | none =>
    dsimp only
    refine if_congr Iff.rfl rfl ?_
    let d : Compaction := { c with hostDemand := 0, automaticDemand := false }
    change (if s.erasedCount ≤ 2 then (s.withEngine d ask).raise (.spaceLow s.erasedCount) else s.withEngine d ask).endRun
      = (if s.erasedCount ≤ 2 then (s.withEngine d none).raise (.spaceLow s.erasedCount) else s.withEngine d none).endRun
    split
    · exact ends _ _
    · exact endRun_withEngine s d ask

/-- The engine chooses in SELECT as R108 says, whatever it has asked for. -/
theorem choose_selecting {host victims reclaimed : Nat} {automatic : Bool}
    (selecting : s.compaction = Compaction.selecting host automatic victims reclaimed) :
    s.chooses (Compaction.selecting host automatic victims reclaimed) (.next s.choose) := by
  have here : s = s.withEngine (Compaction.selecting host automatic victims reclaimed) s.array.compactionRequest := by
    rw [← selecting, withEngine_self]
  rw [here, choose_withEngine, chooses_withEngine]
  exact (chooses_withEngine s _ _ none _).1 (choose_chooses _ host automatic victims reclaimed rfl)

theorem State.compactionHeaderDone_seal (walks : s.compaction.stopping = false) (action : s.compaction.action = .seal) :
    s.compactionHeaderDone = State.selectAgain { s with compaction := { s.compaction with action := .none } } := by
  simp [State.compactionHeaderDone, walks, action]

theorem State.selectAgain_normal (normal : s.supply.state = .normal) : s.selectAgain = s.choose := by
  rw [State.selectAgain, normal]

theorem State.selectAgain_waits (caution : s.supply.state ≠ .normal) : s.selectAgain = s := by
  unfold State.selectAgain
  split
  · exact absurd ‹_› caution
  · rfl
  · rfl

/-- A run of the engine that ends with its demands cleared leaves it as a restart does. -/
theorem Compaction.ended_eq (c : Compaction) : ({ c.noVictim with
    phase := .idle, runVictims := 0, runReclaimed := 0, hostDemand := 0, automaticDemand := false } : Compaction)
      = Compaction.idle := rfl

/-- The waits over, the demands cleared and the run ended (R114, R119). -/
theorem State.closeWalk_eq (s : State) : ∃ l u, s.closeWalk = { s with
    link := l
    notices := u
    executor := s.endWaits.executor
    compaction := Compaction.idle
    array := { s.array with compactionRequest := none } } := by
  obtain ⟨l, u, e⟩ := s.endWaits.clearDemands.endRun_eq
  exact ⟨l, u, e⟩

/-- Settles O45: what each completion lands, and how the requester of a page switch goes on. -/
theorem completionsReachTheCells : Obligations.CompletionsReachTheCells := by
  refine ⟨fun outcome owner p cell w s flight wf => ?program, fun outcome who p w s running flight => ?header,
    fun outcome owner p count s flight wf => ?erase⟩
  case program =>
    intro content
    have same : landedContent w outcome = content := by cases outcome <;> rfl
    refine ⟨?_, fun restarting => ?_⟩
    · obtain ⟨t, next, cells⟩ := exec_programComplete_cells flight outcome
      refine ⟨t, next, ?_, fun a other => ?_⟩
      · rw [cells, Memory.read_write wf, if_pos rfl, same]
      · rw [cells, Memory.read_write wf, if_neg other]
    · rw [exec_programComplete_restarting restarting flight, same]
      rfl
  case header =>
    intro landed t completed
    have lands : s.landed.landHeader p w outcome = t := by cases outcome <;> rfl
    have completes {u : State} (done : t.headerDone (some who) = u) (nothing : u.nothingToTake) : completed = .next u :=
      exec_headerCompleted running flight lands done nothing
    refine ⟨?executor, ?compaction⟩
    case executor =>
      rintro rfl
      refine ⟨fun busy work => completes (State.headerDone_goesOn (s := t) work) (.inl busy),
        fun r someCommit state finishes => ?_⟩
      obtain ⟨c, commit⟩ := Option.ne_none_iff_exists'.1 someCommit
      refine completes ((State.headerDone_commit (s := t) commit).trans ((State.commitHeaderDone_stops (s := t) c state).trans ?_))
        (State.nothingToTake_queue finishes.2.2.1)
      exact State.stopAbandoned_room (s := t) finishes.2.1 finishes.txRoom
    case compaction =>
      rintro rfl nothing
      have done : t.headerDone (some .compaction) = t.compactionHeaderDone := rfl
      refine ⟨fun walks => ⟨fun entry => ?_, fun action caution => ?_, fun host automatic victims reclaimed selecting normal => ?_⟩,
        fun v stops victim other noRun => ?_⟩
      · refine completes (u := t.request .compaction (some .program)) (done.trans ?_) nothing
        have walks : t.compaction.stopping = false := walks
        rcases entry with ⟨words, granted, action⟩ | ⟨fold, action⟩ | action <;>
          simp [State.compactionHeaderDone, walks, show t.compaction.action = _ from action]
      · refine completes (done.trans ((State.compactionHeaderDone_seal (s := t) walks action).trans ?_)) nothing
        exact State.selectAgain_waits caution
      · let u : State := { t with compaction := { t.compaction with action := .none } }
        have engine : u.compaction = Compaction.selecting host automatic victims reclaimed := by
          simp only [u, t, selecting]
          rfl
        have chosen := choose_selecting engine
        have action : s.compaction.action = .seal := by rw [selecting]
        rw [completes (done.trans ((State.compactionHeaderDone_seal (s := t) walks action).trans
          (State.selectAgain_normal normal))) (Undisturbed.nothingToTake (s₀ := u) (Undisturbed.refl u).choose nothing)]
        exact (chooses_withEngine t u.compaction _ t.array.compactionRequest _).1 chosen
      · obtain ⟨l, n, closed⟩ := t.leaveVictim.closeWalk_eq
        have ends : t.compactionHeaderDone = t.leaveVictim.closeWalk := if_pos stops
        have left : t.leaveVictim = { t.setPage v { t.page v with state := .sealed } with
            compaction := { t.compaction with run := none } } := by
          rw [State.leaveVictim_some (s := t) victim, show t.compaction.run = none from noRun]
          rfl
        refine ⟨_, completes (done.trans ends) ((Undisturbed.refl t).abandonWalk.nothingToTake nothing), ?_⟩
        rw [closed, left]
        have pages (q : PageIx) := State.page_setPage t v q { t.page v with state := .sealed }
        refine ⟨(pages v).trans ((if_pos rfl).trans ?_), (pages p).trans (if_neg other), rfl, rfl, rfl, rfl, rfl, rfl⟩
        have same : t.page v = s.page v := by
          cases outcome <;> exact (State.page_setPage s p v _).trans (if_neg other.symm)
        rw [same]
  case erase =>
    obtain ⟨t, next, cells, restarting⟩ := exec_eraseComplete_cells flight outcome
    obtain ⟨erased, spoiled, others⟩ := State.landErase_cells wf p count
    refine ⟨t, next, ?_, ?_, fun a other => ?_, fun h => ?_⟩
    · rintro rfl
      rwa [cells]
    · rintro rfl
      rwa [cells]
    · rw [cells, others outcome a other]
    · rw [cells]
      exact restarting h

end Sys2Proof.Machine
end

section
/-! The superseding of an entry (R13, R16, R57, R72, R76): the live cells that leave the pages, the victim counts, and the
directory's entry; and the INCREMENT's programs (R68 to R73), which end in it. -/

namespace Sys2Proof.Machine

variable {s : State}

/-! ### Victim counts -/

theorem victimCount_raiseCount (counts : List (Nat × Nat)) (ident n other : Nat) :
    victimCount (raiseCount counts ident n) other = victimCount counts other + if other = ident then n else 0 := by
  induction counts with
  | nil => by_cases same : other = ident <;> simp [victimCount, raiseCount, same, eq_comm]
  | cons head rest ih =>
    obtain ⟨i, k⟩ := head
    rw [raiseCount]
    by_cases here : i = ident
    · subst here
      by_cases same : i = other
      · subst same
        simp [victimCount]
        omega
      · simp [victimCount, same, Ne.symm same]
    · rw [if_neg here]
      by_cases same : i = other
      · subst same
        simp only [victimCount, List.filter_cons, decide_true, if_true, List.map_cons, List.sum_cons] at ih ⊢
        omega
      · simpa [victimCount, same] using ih

/-- The entries of an identifier superseded where the walk has passed join its victim count, and no other. -/
theorem State.countSuperseded_spec (s : State) (ident : Nat) (locs : List Loc) : ∃ counts,
    s.countSuperseded ident locs = { s with compaction := { s.compaction with victimCounts := counts } } ∧
    (∀ other, victimCount counts other = victimCount s.compaction.victimCounts other
      + if other = ident then (locs.filter (fun l => s.passedInVictim l)).length else 0) ∧
    (s.compaction.victim = none → counts = s.compaction.victimCounts) := by
  have passed : locs.filter s.compaction.passedLoc = locs.filter (fun l => s.passedInVictim l) :=
    List.filter_congr fun l _ => passedLoc_eq s l
  rw [State.countSuperseded]
  dsimp only
  rw [passed]
  by_cases nothing : (locs.filter (fun l => s.passedInVictim l)).length = 0
  · refine ⟨s.compaction.victimCounts, if_pos nothing, fun other => ?_, fun _ => rfl⟩
    rw [nothing, ite_self, Nat.add_zero]
  · refine ⟨_, if_neg nothing, fun other => victimCount_raiseCount .., fun victim => absurd ?_ nothing⟩
    simp [State.passedInVictim, victim]

/-! ### Live cells -/

/-- The live cells of an entry and its current bumps on a page. -/
def DirEntry.cellsOn (e : DirEntry) (p : PageIx) : Nat :=
  (if e.loc.page = p then currentCells e else 0) + ((bumpsOf e).filter (fun b => b.loc.page = p)).length

theorem State.subLive_page (s : State) (p : PageIx) (n : Nat) (q : PageIx) :
    (s.subLive p n).page q = { s.page q with live := (s.page q).live - if p = q then n else 0 } := by
  rw [State.subLive, State.page_setPage]
  split
  · next same => rw [← same]
  · rfl

theorem State.addLive_page (s : State) (p : PageIx) (n : Nat) (q : PageIx) :
    (s.addLive p n).page q = { s.page q with live := (s.page q).live + if p = q then n else 0 } := by
  rw [State.addLive, State.page_setPage]
  split
  · next same => rw [← same]
  · rfl

/-- The bumps of an entry leave the pages that hold them. -/
theorem dropBumps_spec (bumps : List BumpLoc) : ∀ s : State, ∃ table,
    bumps.foldl (fun s b => s.subLive b.loc.page 1) s = { s with array := { s.array with table } } ∧
    ∀ p, table.get p = { s.page p with live := (s.page p).live - (bumps.filter (fun b => b.loc.page = p)).length } := by
  induction bumps with
  | nil => exact fun s => ⟨_, rfl, fun p => rfl⟩
  | cons b rest ih =>
    intro s
    obtain ⟨table, left, pages⟩ := ih (s.subLive b.loc.page 1)
    refine ⟨table, left, fun p => ?_⟩
    rw [pages, State.subLive_page]
    by_cases here : b.loc.page = p
    · simp [here, Nat.sub_sub, Nat.add_comm 1]
    · simp [here]

theorem State.dropLive_spec (s : State) (e : DirEntry) : ∃ table,
    s.dropLive e = { s with array := { s.array with table } } ∧
    ∀ p, table.get p = { s.page p with live := (s.page p).live - e.cellsOn p } := by
  obtain ⟨table, left, pages⟩ := dropBumps_spec (bumpsOf e) (s.subLive e.loc.page (currentCells e))
  refine ⟨table, left, fun p => ?_⟩
  rw [pages, State.subLive_page, DirEntry.cellsOn, Nat.sub_sub]

/-- An entry superseded: its cells leave the pages that hold them, and it counts where the walk has passed (R16, R57). -/
theorem State.supersede_spec (s : State) (e : DirEntry) (ident : Nat) (locs : List Loc) : ∃ table counts,
    (s.dropLive e).countSuperseded ident locs = { s with
      compaction := { s.compaction with victimCounts := counts }, array := { s.array with table } } ∧
    (∀ other, victimCount counts other = victimCount s.compaction.victimCounts other
      + if other = ident then (locs.filter (fun l => s.passedInVictim l)).length else 0) ∧
    (s.compaction.victim = none → counts = s.compaction.victimCounts) ∧
    ∀ p, table.get p = { s.page p with live := (s.page p).live - e.cellsOn p } := by
  obtain ⟨table, dropped, pages⟩ := s.dropLive_spec e
  obtain ⟨counts, counted, each, kept⟩ := State.countSuperseded_spec { s with array := { s.array with table } } ident locs
  exact ⟨table, counts, by rw [dropped, counted], each, kept, pages⟩

/-- A fold that completes: the tally's base and bumps are superseded, and the fold is its base (R72, R77). -/
theorem State.applyFold_spec {e : DirEntry} {ident : Nat} (found : s.entryOf ident = some e) (gen value : Nat) (loc : Loc) :
    ∃ table counts, s.applyFold ident gen value loc = { s with
      directory := Machine.putEntry s.directory
        { e with gen, loc, stale := e.stale + 1 + (bumpsOf e).length, body := .tally value [] }
      compaction := { s.compaction with victimCounts := counts }
      array := { s.array with table } } ∧
    (∀ other, victimCount counts other = victimCount s.compaction.victimCounts other + if other = ident then
      ((e.loc :: (bumpsOf e).map BumpLoc.loc).filter (fun l => s.passedInVictim l)).length else 0) ∧
    (s.compaction.victim = none → counts = s.compaction.victimCounts) ∧
    ∀ p, table.get p = { s.page p with
      live := (s.page p).live - e.cellsOn p + if loc.page = p then 2 else 0 } := by
  obtain ⟨table, counts, left, each, kept, pages⟩ := s.supersede_spec e ident (e.loc :: (bumpsOf e).map BumpLoc.loc)
  let t : State := { s with
    directory := Machine.putEntry s.directory
      { e with gen, loc, stale := e.stale + 1 + (bumpsOf e).length, body := .tally value [] }
    compaction := { s.compaction with victimCounts := counts }
    array := { s.array with table } }
  refine ⟨(t.addLive loc.page 2).array.table, counts, ?_, each, kept, fun p => ?_⟩
  · rw [State.applyFold, found]
    dsimp only
    rw [left]
    rfl
  · refine (State.addLive_page t loc.page 2 p).trans ?_
    rw [show t.page p = _ from pages p]

/-! ### The entry of an increment -/

theorem entryWords_bump_length (ordinal ident delta gen : Nat) : (entryWords (.bump ordinal ident delta gen) []).length = 1 := by
  rw [entryWords_eq, setCheck_cons (entryHeader_unchecked _)]
  rfl

theorem entryWords_tallyBase_length (flags : Byte) (ident txn gen value : Nat) :
    (entryWords (.tallyBase flags ident txn gen value) []).length = 2 := by
  rw [entryWords_eq, setCheck_cons (entryHeader_unchecked _)]
  rfl

/-- The entry an increment composes for a tally: a bump, or at 32 bumps a fold (R69). -/
def DirEntry.nextIncrement (e : DirEntry) (delta value : Nat) (bumps : List BumpLoc) : IncrementEntry :=
  if bumps.length < 32 then
    { isFold := false, gen := e.gen, ordinal := bumps.length + 1, value := min (value + delta) 4294967295
      saturated := decide (4294967295 < value + delta)
      words := entryWords (.bump (bumps.length + 1) e.ident (min (value + delta) 4294967295 - value) e.gen) [] }
  else
    { isFold := true, gen := e.gen + 1, ordinal := 0, value := min (value + delta) 4294967295
      saturated := decide (4294967295 < value + delta)
      words := entryWords (.tallyBase 3 e.ident 0 (e.gen + 1) (min (value + delta) 4294967295)) [] }

theorem DirEntry.nextIncrement_length (e : DirEntry) (delta value : Nat) (bumps : List BumpLoc) :
    (e.nextIncrement delta value bumps).words.length = if bumps.length < 32 then 1 else 2 := by
  unfold DirEntry.nextIncrement
  split
  · exact entryWords_bump_length ..
  · exact entryWords_tallyBase_length ..

theorem composeIncrement_tally {e : DirEntry} {value : Nat} {bumps : List BumpLoc} (body : e.body = .tally value bumps)
    (delta : Nat) : composeIncrement e delta = some (e.nextIncrement delta value bumps) := by
  simp only [composeIncrement, body, Config.maxBumps, DirEntry.nextIncrement]
  split <;> rfl

theorem State.incrementEntry_fresh {i : IncrementRecord} {e : DirEntry} {value : Nat} {bumps : List BumpLoc}
    (fresh : i.composed = none) (found : s.entryOf i.ident = some e) (body : e.body = .tally value bumps) :
    s.incrementEntry i = some (e.nextIncrement i.delta value bumps) := by
  rw [State.incrementEntry, fresh]
  simp [found, composeIncrement_tally body]

theorem State.fits_iff (s : State) (cells : Nat) : s.fits cells = true ↔ s.openPage ≠ none ∧ cells ≤ s.freeCells := by
  simp [State.fits, Option.isSome_iff_ne_none]

section
variable {i : IncrementRecord} (noRun : i.run = none) {b : IncrementEntry} (entry : s.incrementEntry i = some b)
include noRun entry

/-- The entry of an increment fits the OPEN page: its run is reserved at the append point and its first cell goes out. -/
theorem State.grantIncrement_placed {p : PageIx} {a : Nat} (opened : s.openPage = some p)
    (append : s.array.appendPoint = some a) (fits : b.words.length ≤ 128 - a) : s.grantIncrement i = { s with
      executor := { s.executor with increment := some { i with
        composed := some b, run := some { page := p, first := a, words := b.words, done := 0 } } }
      array := { s.array with
        appendPoint := some (a + b.words.length)
        inFlight := some { owner := some .executor, op := .program p a (b.words.getD 0 blankCell) } } } := by
  have free : s.freeCells = 128 - a := by rw [State.freeCells, opened, append]
  have fits : s.fits b.words.length = true := (s.fits_iff _).2 ⟨by simp [opened], by rwa [free]⟩
  rw [State.grantIncrement, noRun]
  simp only [entry, fits, if_true, opened, Option.getD_some, State.reserve, append]
  rfl

variable (unfit : s.openPage = none ∨ s.freeCells < b.words.length)
include unfit

theorem State.grantIncrement_opens : s.grantIncrement i = match s.pageSwitch .executor with
    | some t => t
    | none => (s.failIncrement i .storeFull).setDemand := by
  have unfit : ¬s.fits b.words.length = true := by
    rw [s.fits_iff]
    rintro ⟨opened, fits⟩
    exact unfit.elim opened (Nat.not_lt.2 fits)
  rw [State.grantIncrement, noRun]
  simp only [entry, unfit]
  cases s.pageSwitch .executor <;> rfl

end

/-! ### The completions of an increment -/

theorem State.cellDone_increment {i : IncrementRecord} {p : PageIx} {cell limit : Nat} {content : CellContent}
    (noCommit : s.executor.commit = none) (increment : s.executor.increment = some i) (outcome : ArrayOutcome) :
    (s.landedAt p cell content limit).cellDone (some .executor) outcome
      = (s.landedAt p cell content limit).incrementCellDone i outcome := by
  simp [State.cellDone, State.landedAt, noCommit, increment]

section
variable {i : IncrementRecord} {run : Run} {b : IncrementEntry} (inRun : i.run = some run) (composed : i.composed = some b)
include inRun composed

theorem State.incrementCellDone_inside (short : run.done + 1 < run.words.length) : s.incrementCellDone i .ok
    = s.continueIncrement { i with run := some { run with done := run.done + 1 } } := by
  simp [State.incrementCellDone, inRun, composed, Nat.not_le.2 short]

theorem State.incrementCellDone_whole (last : run.words.length = run.done + 1) : s.incrementCellDone i .ok
    = s.incrementDone i b { page := run.page, cell := run.first } := by
  simp [State.incrementCellDone, inRun, composed, last]

theorem State.incrementCellDone_again (few : i.failures + 1 < 3) : s.incrementCellDone i .verifyFail
    = (s.faultRun run).continueIncrement { i with run := none, failures := i.failures + 1 } := by
  simp [State.incrementCellDone, inRun, composed, few]

theorem State.incrementCellDone_exhausts (third : i.failures = 2) : s.incrementCellDone i .verifyFail
    = (s.faultRun run).exhaustIncrement run.page := by
  simp [State.incrementCellDone, inRun, composed, third]

end

theorem incrementReply_eq (b : IncrementEntry) : incrementReply (if b.saturated then .saturated else .ok) b.value b.gen
    = [if b.saturated then 0x50 else 0x00] ++ beBytes 4 b.value ++ beBytes 4 b.gen := by
  unfold incrementReply
  cases b.saturated <;> rfl

/-- The entry of an increment stands whole: the directory takes it, and the INCREMENT is answered (R72). -/
theorem State.incrementDone_bump {i : IncrementRecord} {b : IncrementEntry} (bump : b.isFold = false) {e : DirEntry}
    (found : s.entryOf i.ident = some e) (loc : Loc) : s.incrementDone i b loc
      = (((s.putEntry { e with body := .tally b.value (bumpsOf e ++ [{ ordinal := b.ordinal, loc }]) }).addLive loc.page 1
        ).dropIncrement).reply ([if b.saturated then 0x50 else 0x00] ++ beBytes 4 b.value ++ beBytes 4 b.gen) := by
  rw [State.incrementDone, bump, incrementReply_eq]
  simp only [Bool.false_eq_true, if_false, State.applyBump, found]

theorem State.incrementDone_fold {i : IncrementRecord} {b : IncrementEntry} (fold : b.isFold = true) (loc : Loc) :
    s.incrementDone i b loc = ((s.applyFold i.ident b.gen b.value loc).dropIncrement).reply
      ([if b.saturated then 0x50 else 0x00] ++ beBytes 4 b.value ++ beBytes 4 b.gen) := by
  rw [State.incrementDone, fold, incrementReply_eq]
  rfl

/-- What is left before MEDIA is raised: the increment's record gone and the OPEN page sealed (R73). -/
theorem State.exhaustIncrement_left (t : State) : (t.dropIncrement).sealOpenPage = { t with
    array := match t.openPage with
      | none => { t.array with executorRequest := none }
      | some p => { t.array with
        executorRequest := none, appendPoint := none
        table := t.array.table.set p { t.array.table.get p with state := .sealed } }
    executor := { t.executor with increment := none } } := by
  have same : t.dropIncrement.openPage = t.openPage := rfl
  rw [State.sealOpenPage_eq, same]
  cases t.openPage <;> rfl

/-- Settles O47: the entry composed at the grant, and the bump and the fold that complete. -/
theorem incrementEntryCompletes : Obligations.IncrementEntryCompletes := by
  intro i e value bumps s running noCommit increment found body
  have bumpsAre : bumpsOf e = bumps := by rw [bumpsOf, body]
  refine ⟨?grant, fun run b r w flight finishes inRun composed last => ?done⟩
  case grant =>
    intro p a sum saturated b still chosen busy noRead noRun fresh opened append fits
    have length := e.nextIncrement_length i.delta value bumps
    have same : e.nextIncrement i.delta value bumps = b := rfl
    have entry := State.incrementEntry_fresh (s := s.request .executor none) fresh found body
    exact exec_granted running still chosen ((State.grant_increment noRead noCommit increment).trans
      (State.grantIncrement_placed (s := s.request .executor none) noRun entry opened append (length ▸ fits))) (.inl busy)
  case done =>
    intro reply loc written reached
    let u : State := s.landedAt run.page (run.first + run.done) (.word w) (run.first + run.done + 1)
    have completes {t : State} (done : u.incrementDone i b loc = t) (nothing : t.nothingToTake) :
        exec (.programComplete .ok) s = .next t :=
      exec_programCompleted running flight ((State.cellDone_increment noCommit increment .ok).trans
        ((State.incrementCellDone_whole (s := u) inRun composed last).trans done)) nothing
    have answers (t : State) (executing : t.executor.executing = some r) (room : t.txRoom = true) :
        (t.dropIncrement).reply reply = State.answered { t with
          executor := { t.executor with increment := none }, array := { t.array with executorRequest := none } } r reply :=
      State.reply_room (s := { t with
        executor := { t.executor with increment := none }, array := { t.array with executorRequest := none } })
        executing room _
    have found' : u.entryOf i.ident = some e := found
    refine ⟨fun bump => ?_, fun fold => ?_⟩
    · let put : DirEntry := { e with body := .tally b.value (bumps ++ [{ ordinal := b.ordinal, loc }]) }
      have left : (u.putEntry put).addLive run.page 1 = (u.putEntry put).setPage run.page
          { s.page run.page with used := reached, live := (s.page run.page).live + 1 } := by
        have page : (u.putEntry put).page run.page = { s.page run.page with used := reached } :=
          (s.landedAt_page _ _ _ _ _).trans (if_pos rfl)
        rw [State.addLive, page]
      have done := State.incrementDone_bump (s := u) bump found' loc
      rw [bumpsAre, left] at done
      have once := State.setPage_setPage { u with array := { u.array with table := s.array.table } } run.page
        { s.page run.page with used := reached }
        { s.page run.page with used := reached, live := (s.page run.page).live + 1 }
      have table := congrArg (fun t : State => t.array.table) once
      refine completes ((done.trans (answers _ ?_ ?_)).trans ?_) (State.nothingToTake_queue finishes.2.2.1)
      · exact finishes.2.1
      · exact finishes.txRoom
      exact congrArg (fun table => State.answered { s with
        directory := Machine.putEntry s.directory put
        executor := { s.executor with increment := none }
        array := { written with table } } r reply) table
    · intro lost passed
      obtain ⟨table, counts, folded, each, kept, pages⟩ := State.applyFold_spec (s := u) found' b.gen b.value loc
      have done := State.incrementDone_fold (s := u) (i := i) fold loc
      rw [folded, bumpsAre] at done
      rw [bumpsAre] at each
      refine ⟨table, counts, completes (done.trans (answers _ ?_ ?_)) (State.nothingToTake_queue finishes.2.2.1), each, kept,
        fun p enough => ?_⟩
      · exact finishes.2.1
      · exact finishes.txRoom
      have cells : e.cellsOn p = lost p := by rw [DirEntry.cellsOn, bumpsAre, currentCells, body]
      rw [pages, cells, s.landedAt_page]
      by_cases here : run.page = p
      · subst here
        simp only [if_true, loc]
        congr 1
        omega
      · simp only [if_neg here, if_neg (Ne.symm here), loc]
        congr 1

/-- Settles O48: the cells inside the entry, the further attempts, and the grant that opens a page. -/
theorem incrementAttemptsComplete : Obligations.IncrementAttemptsComplete := by
  intro i r s running executing noCommit increment
  refine ⟨fun b run w flight composed inRun => ?completes, fun cells entry still chosen noRead noRun unfit => ?opens⟩
  case completes =>
    intro wrote faulted
    let landed (outcome : ArrayOutcome) : State :=
      s.landedAt run.page (run.first + run.done) (landedContent w outcome) (run.first + run.done + 1)
    have completes {outcome : ArrayOutcome} {t : State} (done : (landed outcome).incrementCellDone i outcome = t)
        (nothing : t.nothingToTake) : exec (.programComplete outcome) s = .next t :=
      exec_programCompleted running flight ((State.cellDone_increment noCommit increment outcome).trans done) nothing
    have busy {t : State} (still : t.executor.executing = some r) : t.nothingToTake := .inl (by simp [still])
    have failed : (landed .verifyFail).faultRun run
        = { s with array := { faulted with executorRequest := s.array.executorRequest } } := State.landedAt_faultRun ..
    refine ⟨fun short => ?_, fun few => ?_, fun third => ?_⟩
    · exact completes (State.incrementCellDone_inside (s := landed .ok) inRun composed short) (busy executing)
    · have goes := State.incrementCellDone_again (s := landed .verifyFail) inRun composed few
      rw [failed] at goes
      exact completes goes (busy executing)
    · intro ended finishes
      have goes := State.incrementCellDone_exhausts (s := landed .verifyFail) inRun composed third
      have opened : ((landed .verifyFail).faultRun run).openPage = s.openPage :=
        (State.faultRun_openPage _ run).trans (State.landedAt_openPage ..)
      have left : ((((landed .verifyFail).faultRun run).dropIncrement).sealOpenPage).raise
          (.media (((landed .verifyFail).faultRun run).openPage.getD run.page) .programRetriesExhausted) = ended := by
        rw [opened]
        refine congrArg (State.raise · _) ((State.exhaustIncrement_left _).trans ?_)
        rw [opened, failed] <;> cases s.openPage <;> rfl
      rw [State.exhaustIncrement, left, State.reply_room finishes.2.1 finishes.txRoom] at goes
      exact completes goes (State.nothingToTake_queue finishes.2.2.1)
  case opens =>
    intro granted
    obtain ⟨b, made, length⟩ : ∃ b, granted.incrementEntry i = some b ∧ b.words.length = cells := by
      rcases entry with ⟨b, composed, length⟩ | ⟨fresh, e, value, bumps, found, body, rfl⟩
      · exact ⟨b, by rw [State.incrementEntry, composed], length⟩
      · exact ⟨_, State.incrementEntry_fresh (s := granted) fresh found body, DirEntry.nextIncrement_length ..⟩
    have opens := (State.grant_increment noRead noCommit increment).trans
      (State.grantIncrement_opens (s := granted) noRun made (by rw [length]; exact unfit))
    refine ⟨fun u switched => ?_, fun notMade finishes => ?_⟩
    · rw [switched] at opens
      have kept : Undisturbed granted u := (Undisturbed.refl granted).pageSwitch switched
      exact exec_granted running still chosen opens (.inl (by simp [kept.executing, granted, executing]))
    · rw [notMade] at opens
      have fails : granted.failIncrement i .storeFull = _ :=
        State.failIncrement_room (s := granted) finishes.2.1 finishes.txRoom noRun .storeFull
      refine exec_granted_demands running still chosen (opens.trans (congrArg State.setDemand fails))
        (State.nothingToTake_queue finishes.2.2.1)

end Sys2Proof.Machine
end

section
/-! The walk over the victim's survey (R7, R109 to R113): that its fuel always reaches the record that needs the array, the
choice at a record row by row, and the resumption of a walk that waits. -/

namespace Sys2Proof.Machine

variable {s : State}

/-! ### The walk reaches its record -/

/-- The survey records that the walk still has before it. -/
def State.recordsLeft (s : State) : Nat :=
  match s.compaction.walk with
  | none => 0
  | some i => s.compaction.survey.length - i

theorem State.recordsLeft_none (h : s.compaction.walk = none) : s.recordsLeft = 0 := by rw [State.recordsLeft, h]

theorem State.recordsLeft_some {i : Nat} (h : s.compaction.walk = some i) :
    s.recordsLeft = s.compaction.survey.length - i := by rw [State.recordsLeft, h]

/-- Moving on leaves one record fewer, whatever else of the engine's record changes. -/
theorem State.recordsLeft_advance {t : State} {i : Nat} (walk : s.compaction.walk = some i)
    (inside : i < s.compaction.survey.length) (sameWalk : t.compaction.walk = s.compaction.walk)
    (sameSurvey : t.compaction.survey = s.compaction.survey) : t.advance.recordsLeft < s.recordsLeft := by
  have before : s.recordsLeft = s.compaction.survey.length - i := State.recordsLeft_some walk
  have position : t.advance.compaction.walk = if i + 1 < s.compaction.survey.length then some (i + 1) else none := by
    simp only [State.advance, Compaction.advance, sameWalk, sameSurvey, walk]
  by_cases more : i + 1 < s.compaction.survey.length
  · rw [if_pos more] at position
    rw [State.recordsLeft_some position, before, show t.advance.compaction.survey = s.compaction.survey from sameSurvey]
    omega
  · rw [if_neg more] at position
    rw [State.recordsLeft_none position, before]
    omega

/-- A walk with no record before it is at the RELEASE. -/
theorem walkOn_atEnd (h : s.recordsLeft = 0) (n : Nat) : walkOn n s = s.startRelease := by
  cases n with
  | zero => rw [walkOn]
  | succ n =>
    rw [walkOn]
    split
    · next i v walk victim =>
      rw [State.recordsLeft_some walk] at h
      rw [List.getElem?_eq_none (by omega)]
    · rfl

theorem walkOn_record {i : Nat} {v : PageIx} {r : SurveyRec} (walk : s.compaction.walk = some i)
    (victim : s.compaction.victim = some v) (record : s.compaction.survey[i]? = some r) (n : Nat) :
    walkOn (n + 1) s = match s.walkChoice v r with
      | .pass => walkOn n s.advance
      | .count ident => walkOn n (s.addVictimCount ident 1).advance
      | .drop ident => walkOn n (s.addDrop ident { page := v, cell := r.first }).advance
      | .copy => s.engineAsks .readCopy (some .read)
      | .tally ident gen => s.walkTally ident gen := by
  rw [walkOn, walk, victim]
  simp only [record] <;> cases s.walkChoice v r <;> rfl

/-- Fuel for every record before the walk is enough. -/
theorem walkOn_enough : ∀ (n : Nat) (s : State), s.recordsLeft ≤ n → walkOn (n + 1) s = walkOn n s
  | 0, s, h => by
    rw [walkOn_atEnd (Nat.le_zero.1 h), walkOn_atEnd (Nat.le_zero.1 h)]
  | n + 1, s, h => by
    cases walk : s.compaction.walk with
    | none => rw [walkOn_atEnd (State.recordsLeft_none walk), walkOn_atEnd (State.recordsLeft_none walk)]
    | some i =>
      cases victim : s.compaction.victim with
      | none => simp only [walkOn, victim, walk]
      | some v =>
        cases record : s.compaction.survey[i]? with
        | none =>
          have done : s.recordsLeft = 0 := by
            rw [State.recordsLeft_some walk, Nat.sub_eq_zero_of_le (List.getElem?_eq_none_iff.1 record)]
          rw [walkOn_atEnd done, walkOn_atEnd done]
        | some r =>
          have inside : i < s.compaction.survey.length := (List.getElem?_eq_some_iff.1 record).1
          have fewer {t : State} (sameWalk : t.compaction.walk = s.compaction.walk)
              (sameSurvey : t.compaction.survey = s.compaction.survey) : t.advance.recordsLeft ≤ n := by
            have := State.recordsLeft_advance walk inside sameWalk sameSurvey
            omega
          rw [walkOn_record walk victim record, walkOn_record walk victim record]
          cases s.walkChoice v r with
          | pass => exact walkOn_enough n _ (fewer rfl rfl)
          | count ident => exact walkOn_enough n _ (fewer (t := s.addVictimCount ident 1) rfl rfl)
          | drop ident => exact walkOn_enough n _ (fewer (t := s.addDrop ident _) rfl rfl)
          | copy => rfl
          | tally ident gen => rfl

theorem State.recordsLeft_le (s : State) : s.recordsLeft ≤ s.compaction.survey.length := by
  unfold State.recordsLeft
  split <;> omega

theorem State.walk_atEnd (h : s.recordsLeft = 0) : s.walk = s.startRelease := walkOn_atEnd h _

section
variable {k : Nat} {v : PageIx} {rec : SurveyRec} (walk : s.compaction.walk = some k)
  (victim : s.compaction.victim = some v) (record : s.compaction.survey[k]? = some rec)
include walk victim record

/-- The walk at a record, by its choice there; a record that takes no array operation is passed (R110). -/
theorem State.walk_record : s.walk = match s.walkChoice v rec with
    | .pass => s.advance.walk
    | .count ident => (s.addVictimCount ident 1).advance.walk
    | .drop ident => (s.addDrop ident { page := v, cell := rec.first }).advance.walk
    | .copy => s.engineAsks .readCopy (some .read)
    | .tally ident gen => s.walkTally ident gen := by
  have full {t : State} (same : t.compaction.survey = s.compaction.survey) :
      walkOn s.compaction.survey.length t = t.walk := by
    rw [State.walk, same]
    exact (walkOn_enough _ t (same ▸ t.recordsLeft_le)).symm
  rw [State.walk, walkOn_record walk victim record]
  cases s.walkChoice v rec with
  | pass => exact full rfl
  | count ident => exact full (t := (s.addVictimCount ident 1).advance) rfl
  | drop ident => exact full (t := (s.addDrop ident _).advance) rfl
  | copy => rfl
  | tally ident gen => rfl

theorem State.walk_pass (choice : s.walkChoice v rec = .pass) : s.walk = s.advance.walk := by
  rw [State.walk_record walk victim record, choice]

theorem State.walk_count {ident : Nat} (choice : s.walkChoice v rec = .count ident) :
    s.walk = (s.addVictimCount ident 1).advance.walk := by
  rw [State.walk_record walk victim record, choice]

theorem State.walk_drop {ident : Nat} (choice : s.walkChoice v rec = .drop ident) :
    s.walk = (s.addDrop ident { page := v, cell := rec.first }).advance.walk := by
  rw [State.walk_record walk victim record, choice]

theorem State.walk_copy (choice : s.walkChoice v rec = .copy) : s.walk = s.engineAsks .readCopy (some .read) := by
  rw [State.walk_record walk victim record, choice]

theorem State.walk_tally {ident gen : Nat} (choice : s.walkChoice v rec = .tally ident gen) :
    s.walk = s.walkTally ident gen := by
  rw [State.walk_record walk victim record, choice]

end

/-! ### A tally met by the walk (R112) -/

section
variable {ident gen : Nat}

theorem State.walkTally_folded (folded : ident ∈ s.compaction.folded) :
    s.walkTally ident gen = s.engineAsks .readCopy (some .read) := by
  simp [State.walkTally, folded]

variable (unfolded : ident ∉ s.compaction.folded)
include unfolded

theorem State.walkTally_barred (barred : s.commitStages ident) : s.walkTally ident gen = s.engineAsks .awaitCommit none := by
  simp [State.walkTally, unfolded, (s.foldBarred_iff ident).2 barred]

/-- The tally joins the folded set. -/
def State.joinFolded (s : State) (ident : Nat) : State :=
  { s with compaction := { s.compaction with folded := s.compaction.folded ++ [ident] } }

theorem State.walkTally_free (free : ¬s.commitStages ident) : s.walkTally ident gen =
    if gen ≤ 4294967293 then (s.joinFolded ident).engineAsks (.fold none) (some .program)
    else (s.joinFolded ident).engineAsks .readCopy (some .read) := by
  have free : s.foldBarred ident = false := by simpa [← s.foldBarred_iff] using free
  simp [State.walkTally, unfolded, free, Config.maxFoldGeneration, State.joinFolded]

end

/-! ### The walk's choice at a record (R110) -/

theorem State.committedNow_iff (s : State) (v : PageIx) (rec : SurveyRec) : s.committedNow v rec = true ↔
    rec.committed = true ∨ ∃ ident txn self, versionOf rec.entry = some (ident, txn, self) ∧
      ({ page := v, txn } : CarryPair) ∈ s.carry := by
  unfold State.committedNow
  cases versionOf rec.entry with
  | none => simp
  | some version =>
    obtain ⟨ident, txn, self⟩ := version
    cases self <;> simp

section
variable {v : PageIx} {rec : SurveyRec}

theorem State.walkChoice_foreign (h : entryIdent rec.entry = none ∨ ¬s.committedNow v rec = true) :
    s.walkChoice v rec = .pass := by
  unfold State.walkChoice
  split
  · rfl
  · next ident entry =>
    rcases h with none | not
    · simp [entry] at none
    · exact if_neg not

variable {ident : Nat} (entry : entryIdent rec.entry = some ident) (committed : s.committedNow v rec = true)
include entry committed

theorem State.walkChoice_absent (absent : s.entryOf ident = none) : s.walkChoice v rec = .pass := by
  unfold State.walkChoice
  rw [entry]
  dsimp only
  rw [if_pos committed, absent]

variable {e : DirEntry} (found : s.entryOf ident = some e)
include found

theorem State.walkChoice_bump {ordinal delta gen : Nat} (bump : rec.entry = .bump ordinal ident delta gen) :
    s.walkChoice v rec = if gen = e.gen ∧ ({ ordinal, loc := { page := v, cell := rec.first } } : BumpLoc) ∈ bumpsOf e then
      .tally ident e.gen else .count ident := by
  unfold State.walkChoice
  rw [entry]
  dsimp only
  rw [if_pos committed, found, bump]

/-- A version that the directory does not name is counted. -/
theorem State.walkChoice_elsewhere {txn : Nat} {self : Bool} (version : versionOf rec.entry = some (ident, txn, self))
    (elsewhere : e.loc ≠ { page := v, cell := rec.first }) : s.walkChoice v rec = .count ident := by
  have there : ¬({ page := v, cell := rec.first } : Loc) = e.loc := fun h => elsewhere h.symm
  unfold State.walkChoice
  rw [entry]
  dsimp only
  rw [if_pos committed, found]
  cases kind : rec.entry <;> simp_all [versionOf]

variable (here : e.loc = { page := v, cell := rec.first })
include here

theorem State.walkChoice_blob {flags : Byte} {txn gen length : Nat} (blob : rec.entry = .blob flags ident txn gen length) :
    s.walkChoice v rec = .copy := by
  unfold State.walkChoice
  rw [entry]
  dsimp only
  rw [if_pos committed, found, blob]
  simp [here]

theorem State.walkChoice_tallyBase {flags : Byte} {txn gen base : Nat}
    (tally : rec.entry = .tallyBase flags ident txn gen base) : s.walkChoice v rec = .tally ident e.gen := by
  unfold State.walkChoice
  rw [entry]
  dsimp only
  rw [if_pos committed, found, tally]
  simp [here]

theorem State.walkChoice_tombstone {flags : Byte} {txn gen : Nat} (tombstone : rec.entry = .tombstone flags ident txn gen) :
    s.walkChoice v rec = if s.dropTest v e then .drop ident else .copy := by
  unfold State.walkChoice
  rw [entry]
  dsimp only
  rw [if_pos committed, found, tombstone]
  simp [here]

end

/-! ### The walk that waits -/

/-- A record is that of its tally's present base, or of a current bump (R110). -/
def currentTally (v : PageIx) (rec : SurveyRec) (ident : Nat) (e : DirEntry) : Prop :=
  (∃ flags txn gen base, rec.entry = .tallyBase flags ident txn gen base ∧ e.loc = { page := v, cell := rec.first }) ∨
    ∃ ordinal delta value bumps, rec.entry = .bump ordinal ident delta e.gen ∧ e.body = .tally value bumps ∧
      ({ ordinal, loc := { page := v, cell := rec.first } } : BumpLoc) ∈ bumps

theorem State.walkChoice_current {v : PageIx} {rec : SurveyRec} {ident : Nat} {e : DirEntry}
    (entry : entryIdent rec.entry = some ident) (committed : s.committedNow v rec = true) (found : s.entryOf ident = some e)
    (current : currentTally v rec ident e) : s.walkChoice v rec = .tally ident e.gen := by
  rcases current with ⟨flags, txn, gen, base, tally, here⟩ | ⟨ordinal, delta, value, bumps, bump, body, member⟩
  · exact State.walkChoice_tallyBase entry committed found here tally
  · rw [State.walkChoice_bump entry committed found bump, bumpsOf, body]
    exact if_pos ⟨rfl, member⟩

theorem exec_compactionWalkResume (running : s.restarting = none) (waits : s.compaction.action = .awaitCommit)
    (free : ¬s.recordBarred = true) : exec .compactionWalkResume s = .next s.walk := by
  change execCompactionWalkResume s = _
  simp [execCompactionWalkResume, running, State.resumeWalk, waits, free]

theorem exec_compactionWalkResume_nothing
    (h : s.recordBarred = true ∨ s.compaction.action ≠ .awaitCommit ∨ s.restarting ≠ none) :
    exec .compactionWalkResume s = .next s := by
  change execCompactionWalkResume s = _
  unfold execCompactionWalkResume State.resumeWalk
  split
  · next running =>
    split
    · next waits =>
      rcases h with barred | other | restarting
      · rw [if_pos barred]
      · exact absurd waits other
      · exact absurd (Option.isNone_iff_eq_none.1 running) restarting
    · rfl
  · rfl

/-- Settles O56: a walk that waits goes on with the record it stands at once its tally is free. -/
theorem waitingWalkResumes : Obligations.WaitingWalkResumes := by
  intro v k ident rec s victim walk record entry here barred current asks
  have recordBarred : s.recordBarred = true ↔ barred := by
    rw [s.recordBarred_iff]
    refine ⟨fun ⟨other, ⟨j, x, walk', record', entry'⟩, stages⟩ => ?_, fun stages => ⟨ident, ⟨k, rec, walk, record, entry⟩, stages⟩⟩
    obtain rfl : j = k := Option.some.inj (walk'.symm.trans walk)
    obtain rfl : x = rec := Option.some.inj (record'.symm.trans record)
    obtain rfl : other = ident := Option.some.inj (entry'.symm.trans entry)
    exact stages
  refine ⟨fun h => exec_compactionWalkResume_nothing (h.imp_left recordBarred.2), fun running waits free committed =>
    ⟨fun e found now => ?_, fun e found elsewhere flags txn gen base tally last => ?_⟩⟩
  all_goals rw [exec_compactionWalkResume running waits (mt recordBarred.1 free)]
  all_goals have marked : s.committedNow v rec = true := (s.committedNow_iff v rec).2 (.inl committed)
  · rw [State.walk_tally walk victim record (State.walkChoice_current entry marked found now)]
    refine ⟨fun unfolded low => ?_, fun unfolded high => ?_, fun folded => ?_⟩
    · rw [State.walkTally_free unfolded free, if_pos low]
      rfl
    · rw [State.walkTally_free unfolded free, if_neg (Nat.not_le.2 high)]
      rfl
    · rw [State.walkTally_folded folded]
      rfl
  · have choice := State.walkChoice_elsewhere entry marked found (txn := txn) (self := selfFlag flags) (by rw [tally]; rfl)
      elsewhere
    have ended : (s.addVictimCount ident 1).advance.compaction.walk = none := by
      simp [State.advance, Compaction.advance, State.addVictimCount, walk, last]
    rw [State.walk_count walk victim record choice, State.walk_atEnd (State.recordsLeft_none ended)]
    rfl

end Sys2Proof.Machine
end

section
/-! The survey and the copy (R109, R111, R188): the engine's reads, the survey's records and their marks, and the words of a
copy. -/

namespace Sys2Proof.Machine

variable {s : State}

/-! ### The walk and the executor -/

section
variable {s₀ : State} (h : Undisturbed s₀ s)
include h

theorem Undisturbed.engineAsks (a : Action) (op : Option RequestOp) : Undisturbed s₀ (s.engineAsks a op) := h

theorem Undisturbed.startRelease : Undisturbed s₀ s.startRelease := h

theorem Undisturbed.walkTally (ident gen : Nat) : Undisturbed s₀ (s.walkTally ident gen) := by
  unfold State.walkTally
  dsimp only
  split
  · exact h
  · split <;> split <;> exact h

theorem Undisturbed.walkOn (n : Nat) : Undisturbed s₀ (walkOn n s) := by
  induction n generalizing s with
  | zero => exact h.startRelease
  | succ n ih =>
    rw [Machine.walkOn]
    split
    · split
      · exact h.startRelease
      · split
        · exact ih (s := s.advance) h
        · exact ih (s := (s.addVictimCount _ 1).advance) h
        · exact ih (s := (s.addDrop _ _).advance) h
        · exact h
        · exact h.walkTally _ _
    · exact h.startRelease

theorem Undisturbed.walk : Undisturbed s₀ s.walk := h.walkOn _

end

/-! ### The engine's reads -/

section
variable {v : PageIx} (noRun : s.compaction.run = none) (victim : s.compaction.victim = some v)
include noRun victim

theorem State.grantStep_survey (action : s.compaction.action = .survey) : s.grantStep = s.start .compaction
    (.read v (2 + s.compaction.surveyed.length) (min 16 ((s.page v).used - (2 + s.compaction.surveyed.length)))) := by
  simp [State.grantStep, noRun, action, victim]

theorem State.grantStep_readCopy (action : s.compaction.action = .readCopy) {rec : SurveyRec}
    (record : s.compaction.record = some rec) :
    s.grantStep = s.start .compaction (.read v rec.first (entryCells rec.entry)) := by
  simp [State.grantStep, noRun, action, victim, record]

end

/-- s with the content of a read taken off the array. -/
def State.readLanded (s : State) (p : PageIx) (first count : Nat) (noise : List CellWord) : State :=
  { s.landed with freeIndex := (s.array.cells.readRun (cellAddress p first) count noise s.freeIndex).2 }

/-- A read's completion whose work leaves the executor nothing to take. -/
theorem exec_readCompleted (running : s.restarting = none) {owner : Option Requester} {p : PageIx} {first count : Nat}
    (flight : s.array.inFlight = some { owner, op := .read p first count }) {noise : List CellWord} {t : State}
    (done : (s.readLanded p first count noise).readDone owner
      (s.array.cells.readRun (cellAddress p first) count noise s.freeIndex).1 = t) (nothing : t.nothingToTake) :
    exec (.readComplete noise) s = .next t := by
  change execReadComplete noise s = _
  rw [execReadComplete, flight]
  refine congrArg Host.Outcome.next ((if_pos (by simp [running, State.landed])).trans ?_)
  exact (congrArg State.runExecutor done).trans (State.runExecutor_nothing nothing)

theorem State.engineAsks_same {a : Action} (same : s.compaction.action = a) (op : Option RequestOp) :
    s.engineAsks a op = s.request .compaction op := by
  subst same
  rfl

theorem State.surveyRead_more {v : PageIx} {words : List CellWord} (action : s.compaction.action = .survey)
    (more : 2 + (s.compaction.surveyed ++ words).length < (s.page v).used) : s.surveyRead v words
      = State.request { s with compaction := { s.compaction with surveyed := s.compaction.surveyed ++ words } }
        .compaction (some .read) := by
  refine (if_pos more).trans (State.engineAsks_same ?_ _)
  exact action

theorem State.surveyRead_last {v : PageIx} {words : List CellWord}
    (last : (s.page v).used ≤ 2 + (s.compaction.surveyed ++ words).length) : s.surveyRead v words
      = State.walk { s with compaction := { s.compaction with
        surveyed := s.compaction.surveyed ++ words, survey := s.buildSurvey v (s.compaction.surveyed ++ words),
        walk := some 0, action := .none } } :=
  if_neg (Nat.not_lt.2 last)

theorem State.copyRead_eq {rec : SurveyRec} (record : s.compaction.record = some rec) (words : List CellWord) :
    s.copyRead words
      = s.engineAsks (.copy (if (versionOf rec.entry).isSome then copyWords words else words) false) (some .program) := by
  rw [State.copyRead, record]

section
variable {v : PageIx} (victim : s.compaction.victim = some v) (words : List CellWord)
include victim

theorem State.compactionRead_survey (walks : s.compaction.stopping = false) (action : s.compaction.action = .survey) :
    s.compactionRead words = s.surveyRead v words := by
  simp [State.compactionRead, walks, action, victim]

theorem State.compactionRead_copy (walks : s.compaction.stopping = false) (action : s.compaction.action = .readCopy) :
    s.compactionRead words = s.copyRead words := by
  simp [State.compactionRead, walks, action, victim]

end

/-! ### A walk given up -/

theorem State.faultRun_state (s : State) (run : Run) (q : PageIx) : ((s.faultRun run).page q).state = (s.page q).state := by
  change ((s.raiseUsed run.page (run.first + run.words.length)).page q).state = _
  rw [State.raiseUsed, State.page_setPage]
  split
  · next same => rw [← same]
  · rfl

theorem State.faultRunIfAny_state (s : State) (run : Option Run) (q : PageIx) :
    ((s.faultRunIfAny run).page q).state = (s.page q).state := by
  cases run with
  | none => rfl
  | some run => exact s.faultRun_state run q

/-- The victim left behind is SEALED, and the rest of the device but the array and the engine's run is as it was (R120). -/
theorem State.leaveVictim_victim {v : PageIx} (victim : s.compaction.victim = some v) :
    (s.leaveVictim.page v).state = .sealed ∧ s.leaveVictim.store = s.store := by
  rw [State.leaveVictim_some victim]
  refine ⟨(State.faultRunIfAny_state _ s.compaction.run v).trans ?_, by cases s.compaction.run <;> rfl⟩
  rw [State.page_setPage, if_pos rfl]

theorem State.abandonWalk_givenUp {v : PageIx} (victim : s.compaction.victim = some v) :
    walkGivenUp (.next s.abandonWalk) v s.store := by
  obtain ⟨sealed, store⟩ := State.leaveVictim_victim victim
  obtain ⟨l, u, closed⟩ := s.leaveVictim.closeWalk_eq
  refine ⟨_, rfl, ?_⟩
  rw [State.abandonWalk, closed]
  exact ⟨sealed, rfl, rfl, rfl, rfl, rfl, store⟩

end Sys2Proof.Machine
end

section
/-! The survey's records and the words of a copy (R109, R111, R188). -/

namespace Sys2Proof.Machine

variable {s : State}

/-! ### The survey -/

/-- The valid entries of a victim outside its faulted runs, with their first cells (R109). -/
def State.surveyEntries (s : State) (v : PageIx) (words : List CellWord) : List (Nat × Entry) :=
  judgeCells (fun cell => s.array.faulted.any (fun f => f.page = v ∧ f.first ≤ cell ∧ cell < f.first + f.count))
    (words ++ List.replicate (126 - words.length) blankCell) 2 0

theorem State.buildSurvey_eq (s : State) (v : PageIx) (words : List CellWord) : s.buildSurvey v words =
    (s.surveyEntries v words).map (fun x => SurveyRec.mk x.1 x.2
      (surveyCommitted ((s.surveyEntries v words).map (fun x => x.2)) s.carry v x.2)) := by
  have barred : (fun cell => (s.array.faulted.filter (fun f => f.page = v)).any
      (fun f => decide (f.first ≤ cell ∧ cell < f.first + f.count)))
        = fun cell => s.array.faulted.any (fun f => f.page = v ∧ f.first ≤ cell ∧ cell < f.first + f.count) := by
    funext cell
    simp [List.any_filter, Bool.decide_and]
  simp only [State.buildSurvey, barred]
  rfl

theorem identsOfTxn_map (entries : List (Nat × Entry)) (txn : Nat) : identsOfTxn (entries.map (fun x => x.2)) txn
    = (entries.filterMap (fun x => match versionOf x.2 with
        | some (ident, t, self) => if t = txn ∧ self = false then some ident else none
        | none => none)).eraseDups := by
  rw [identsOfTxn, List.filterMap_map]
  rfl

/-- The victim holds a matching marker of the transaction (R109). -/
theorem markerMatches_iff (entries : List Entry) (txn : Nat) : markerMatches entries txn = true ↔
    Entry.marker txn (identsOfTxn entries txn).length ∈ entries := by
  rw [markerMatches, List.any_eq_true]
  refine ⟨fun ⟨e, member, matching⟩ => ?_, fun member => ⟨_, member, by simp⟩⟩
  cases e with
  | marker t count =>
    obtain ⟨rfl, rfl⟩ := of_decide_eq_true matching
    exact member
  | _ => simp at matching

theorem surveyCommitted_self {entries : List Entry} {carry : List CarryPair} {v : PageIx} {e : Entry} {ident txn : Nat}
    (version : versionOf e = some (ident, txn, true)) : surveyCommitted entries carry v e = true := by
  simp [surveyCommitted, version]

theorem surveyCommitted_bump (entries : List Entry) (carry : List CarryPair) (v : PageIx) (ordinal ident delta gen : Nat) :
    surveyCommitted entries carry v (.bump ordinal ident delta gen) = true := rfl

theorem surveyCommitted_version {entries : List Entry} {carry : List CarryPair} {v : PageIx} {e : Entry} {ident txn : Nat}
    (version : versionOf e = some (ident, txn, false)) : surveyCommitted entries carry v e = true ↔
      Entry.marker txn (identsOfTxn entries txn).length ∈ entries ∨ ({ page := v, txn } : CarryPair) ∈ carry := by
  simp [surveyCommitted, version, markerMatches_iff]

/-! ### The words of a copy -/

/-- A first cell with SELF set and another check value: bit by bit. -/
theorem selfCell_bit (w : CellWord) (c : Check) {i : Nat} (inside : i < 128) :
    ((((w ||| (1#128 <<< 112)) >>> 16) <<< 16) ||| c.setWidth 128).getLsbD i
      = if i < 16 then c.getLsbD i else (w.getLsbD i || decide (i = 112)) := by
  by_cases low : i < 16
  · simp [low, inside]
  · have back : 16 + (i - 16) = i := by omega
    have high : c.getLsbD i = false := BitVec.getLsbD_of_ge c i (by omega)
    by_cases flag : i = 112
    · subst flag
      simp
    · have one : (1#128 <<< 112).getLsbD i = false := by
        rw [BitVec.getLsbD_shiftLeft, BitVec.getLsbD_one]
        by_cases above : i < 112
        · simp [above]
        · have nonzero : i - 112 ≠ 0 := by omega
          simp [nonzero]
      rw [BitVec.getLsbD_or, BitVec.getLsbD_shiftLeft, BitVec.getLsbD_ushiftRight, BitVec.getLsbD_or, back, one]
      simp [low, inside, high, flag]

theorem selfCell_unchecked (w : CellWord) : uncheckedCell (((w ||| (1#128 <<< 112)) >>> 16) <<< 16) := by
  refine fun c => ⟨?_, ?_⟩
  · refine BitVec.eq_of_getLsbD_eq fun i inside => ?_
    by_cases low : i < 16
    · simp [low]
    · have back : 16 + (i - 16) = i := by omega
      have high : c.getLsbD i = false := BitVec.getLsbD_of_ge c i (by omega)
      simp [low, inside, back, high]
  · refine BitVec.eq_of_getLsbD_eq fun i inside => ?_
    rw [BitVec.getLsbD_extractLsb', Nat.zero_add, selfCell_bit w c (by omega), if_pos inside, decide_eq_true inside,
      Bool.true_and]

/-- The bits of a copy's first cell outside byte 1 and the check field are as they were. -/
theorem selfCell_extract (w : CellWord) (c : Check) {first count : Nat} (low : 16 ≤ first)
    (apart : first + count ≤ 112 ∨ 120 ≤ first) :
    ((((w ||| (1#128 <<< 112)) >>> 16) <<< 16) ||| c.setWidth 128).extractLsb' first count = w.extractLsb' first count := by
  refine BitVec.eq_of_getLsbD_eq fun i inside => ?_
  rw [BitVec.getLsbD_extractLsb', BitVec.getLsbD_extractLsb']
  by_cases range : first + i < 128
  · have other : first + i ≠ 112 := by omega
    have high : ¬first + i < 16 := by omega
    rw [selfCell_bit w c range, if_neg high]
    simp [other]
  · rw [BitVec.getLsbD_of_ge _ _ (by omega), BitVec.getLsbD_of_ge w _ (by omega)]

theorem selfCell_flags (w : CellWord) (c : Check) :
    ((((w ||| (1#128 <<< 112)) >>> 16) <<< 16) ||| c.setWidth 128).extractLsb' 112 8 = w.extractLsb' 112 8 ||| 1 := by
  refine BitVec.eq_of_getLsbD_eq fun i inside => ?_
  have high : ¬112 + i < 16 := by omega
  have one : (1 : Byte).getLsbD i = decide (i = 0) := by
    simp [BitVec.getLsbD_one]
  rw [BitVec.getLsbD_extractLsb', selfCell_bit w c (by omega), if_neg high, BitVec.getLsbD_or, BitVec.getLsbD_extractLsb', one]
  simp [inside]

/-- A copy's words: SELF set in the first cell, the check anew, every later cell as it was. -/
theorem copyWords_cons (w : CellWord) (rest : List CellWord) : ∃ c : Check, copyWords (w :: rest)
      = ((((w ||| (1#128 <<< 112)) >>> 16) <<< 16) ||| c.setWidth 128) :: rest ∧
    checkMatches (copyWords (w :: rest)) = true := by
  let u : CellWord := ((w ||| (1#128 <<< 112)) >>> 16) <<< 16
  have clear : clearCheck (u :: rest) = clearCheck ((w ||| (1#128 <<< 112)) :: rest) :=
    congrArg (· :: rest) (uncheckedCell_clear (selfCell_unchecked w))
  have words : copyWords (w :: rest) = (u ||| (entryCheck (u :: rest)).setWidth 128) :: rest := by
    rw [copyWords, ← setCheck_cons (selfCell_unchecked w), setCheck, setCheck, entryCheck, entryCheck, clear]
  exact ⟨entryCheck (u :: rest), words, words ▸ checkMatches_set (selfCell_unchecked w) rest⟩

end Sys2Proof.Machine
end

section
/-! The survey and the walk (R109 to R113, R188): a copy is judged as its original with SELF set, and the theorem that puts
the parts together. -/

namespace Sys2Proof.Machine

variable {s : State}

/-! ### A copy is judged as its original, SELF set -/

/-- A version with SELF set (R111). -/
def Entry.withSelf : Entry → Entry
  | .blob flags ident txn gen length => .blob (flags ||| 1) ident txn gen length
  | .tallyBase flags ident txn gen value => .tallyBase (flags ||| 1) ident txn gen value
  | .tombstone flags ident txn gen => .tombstone (flags ||| 1) ident txn gen
  | e => e

theorem Entry.withSelf_inRange (e : Entry) : entryInRange e.withSelf = entryInRange e := by cases e <;> rfl

theorem Entry.withSelf_cells (e : Entry) : entryCells e.withSelf = entryCells e := by cases e <;> rfl

/-- A first cell as its copy shows it: SELF set in byte 1, every byte but that and the check's as it was. -/
def SelfOf (w u : CellWord) : Prop :=
  cellByte u 1 = cellByte w 1 ||| 1 ∧ (∀ k, k < 14 → k ≠ 1 → cellByte u k = cellByte w k) ∧
  cellField u 0 1 = cellField w 0 1 ∧
  ∀ first count, 2 ≤ first → first + count ≤ 14 → cellField u first count = cellField w first count

theorem selfOf_copy (w : CellWord) (c : Check) :
    SelfOf w ((((w ||| (1#128 <<< 112)) >>> 16) <<< 16) ||| c.setWidth 128) := by
  refine ⟨selfCell_flags w c, fun k inside other => selfCell_extract w c (by omega) (by omega),
    congrArg BitVec.toNat (selfCell_extract w c (by omega) (by omega)), fun first count low high =>
      congrArg BitVec.toNat (selfCell_extract w c (by omega) (by omega))⟩

theorem entryFields_withSelf {w u : CellWord} (copy : SelfOf w u) {rest : List CellWord} {e : Entry}
    (fields : entryFields (w :: rest) = some e) (version : (versionOf e).isSome) :
    entryFields (u :: rest) = some e.withSelf := by
  obtain ⟨flags, _, code, others⟩ := copy
  unfold entryFields at fields ⊢
  simp only [List.headD_cons, flags, code, others 2 2 (by omega) (by omega), others 4 4 (by omega) (by omega),
    others 8 4 (by omega) (by omega), others 12 1 (by omega) (by omega), others 13 1 (by omega) (by omega)] at fields ⊢
  split at fields
  case h_8 => simp at fields
  all_goals
    obtain ⟨count, fields⟩ := Option.ite_none_right_eq_some.1 fields
    obtain rfl := Option.some.inj fields
    simp_all [versionOf, Entry.withSelf]

/-- What a copy keeps of its original, and how it is judged (R111, R188). -/
theorem judgeEntry_copyWords {words : List CellWord} {e : Entry} (judged : judgeEntry words = some e)
    (whole : words.length = entryCells e) (version : (versionOf e).isSome) :
    judgeEntry (copyWords words) = some e.withSelf ∧ (copyWords words).length = words.length ∧
      (copyWords words).drop 1 = words.drop 1 ∧
      ∀ k, k < 14 → k ≠ 1 → cellByte ((copyWords words).headD blankCell) k = cellByte (words.headD blankCell) k := by
  cases words with
  | nil => simp [judgeEntry, entryFields, blankCell, cellField] at judged
  | cons w rest =>
    obtain ⟨c, words, matching⟩ := copyWords_cons w rest
    have copy := selfOf_copy w c
    refine ⟨?_, by simp [words], by simp [words], by rw [words]; exact copy.2.1⟩
    rw [judgeEntry] at judged ⊢
    split at judged
    · simp at judged
    · next fields =>
      obtain ⟨ok, found⟩ := Option.ite_none_right_eq_some.1 judged
      obtain rfl := Option.some.inj found
      have all : (copyWords (w :: rest)).take (entryCells (Entry.withSelf _)) = copyWords (w :: rest) :=
        List.take_of_length_le (by rw [Entry.withSelf_cells, words, ← whole]; simp)
      simp only [Bool.and_eq_true, decide_eq_true_eq] at ok
      rw [words, entryFields_withSelf copy fields version]
      dsimp only
      rw [← words, all, matching, Entry.withSelf_inRange, ok.1.1, Entry.withSelf_cells, if_pos]
      simp [words, ← whole]

/-! ### The reads of the engine -/

/-- A grant of a step that starts an operation: the request is withdrawn and the operation is in flight. -/
theorem exec_granted_step (running : s.restarting = none) (still : s.array.inFlight = none)
    (chosen : s.chooseRequester = some .compaction) (standing : s.foldLapsed = false) {op : ArrayOp}
    (step : (s.request .compaction none).grantStep = (s.request .compaction none).start .compaction op)
    (nothing : s.nothingToTake) : exec .arbiterGrant s = .next { s with array := { s.array with
      compactionRequest := none, inFlight := some { owner := some .compaction, op } } } :=
  exec_granted running still chosen ((State.grant_compaction standing).trans step) nothing

theorem State.foldLapsed_other (other : ∀ f, s.compaction.action ≠ .fold (some f)) : s.foldLapsed = false :=
  State.foldLapsed_eq_false fun f fold => absurd fold (other f)

/-- A read of the engine's, completed in a walk that does not stop. -/
theorem exec_compactionRead (running : s.restarting = none) (nothing : s.nothingToTake) {v : PageIx} {first count : Nat}
    (flight : s.array.inFlight = some { owner := some .compaction, op := .read v first count }) {noise : List CellWord}
    {t : State} (done : (s.readLanded v first count noise).compactionRead
      (s.array.cells.readRun (cellAddress v first) count noise s.freeIndex).1 = t) (rest : Undisturbed s t) :
    exec (.readComplete noise) s = .next t :=
  exec_readCompleted running flight done (rest.nothingToTake nothing)

theorem State.readLanded_undisturbed (s : State) (v : PageIx) (first count : Nat) (noise : List CellWord) :
    Undisturbed s (s.readLanded v first count noise) := Undisturbed.refl s

/-! ### The walk, record by record -/

theorem State.dropTest_iff {v : PageIx} {rec : SurveyRec} {e : DirEntry} {ident : Nat} (found : s.entryOf ident = some e)
    (here : e.loc = { page := v, cell := rec.first }) : s.dropTest v e = true ↔
      (s.compaction.survey.filter (fun x =>
        entryIdent x.entry = some ident ∧ s.committedNow v x = true ∧ x.first ≠ rec.first)).length = e.stale := by
  have same : (fun r : SurveyRec => decide (entryIdent r.entry = some e.ident) && s.committedNow v r &&
      decide (({ page := v, cell := r.first } : Loc) ≠ e.loc))
      = fun x => decide (entryIdent x.entry = some ident ∧ s.committedNow v x = true ∧ x.first ≠ rec.first) := by
    funext x
    rw [findEntry_ident found, here]
    simp [Bool.and_assoc]
  rw [State.dropTest, same, decide_eq_true_eq]

theorem State.advance_eq {k : Nat} (walk : s.compaction.walk = some k) : s.advance = { s with compaction :=
    { s.compaction with action := .none, walk := if k + 1 < s.compaction.survey.length then some (k + 1) else none } } := by
  rw [State.advance, Compaction.advance, walk]

/-- Settles O53: the engine's reads and what they leave, the records of the survey, the words of a copy, the counts, and the
walk's row at each record. -/
theorem compactionSurveysAndWalks : Obligations.CompactionSurveysAndWalks := by
  refine ⟨?reads, ?survey, ?copies, victimCount_raiseCount, ?walks⟩
  case reads =>
    intro v s running victim nothing first
    refine ⟨fun still chosen noRun => ⟨fun action => ?_, fun k rec action walk record => ?_⟩,
      fun noise at' count stopping flight => ?_, fun noise at' count flight walks => ?_⟩
    · exact exec_granted_step running still chosen (State.foldLapsed_other (by simp [action]))
        (State.grantStep_survey (s := s.request .compaction none) noRun victim action) nothing
    · exact exec_granted_step running still chosen (State.foldLapsed_other (by simp [action]))
        (State.grantStep_readCopy (s := s.request .compaction none) noRun victim action
          ((Compaction.record_iff _ _).2 ⟨k, walk, record⟩))
        nothing
    · rw [exec_compactionRead running nothing flight (if_pos stopping) (s.readLanded_undisturbed v at' count noise).abandonWalk]
      exact State.abandonWalk_givenUp (s := s.readLanded v at' count noise) victim
    · intro got read asks
      have landed : Undisturbed s (s.readLanded v at' count noise) := s.readLanded_undisturbed v at' count noise
      refine ⟨fun action more => ?_, fun action last => ?_, fun k rec action walk record => ?_⟩
      · exact exec_compactionRead running nothing flight
          ((State.compactionRead_survey (s := s.readLanded v at' count noise) victim _ walks action).trans
            (State.surveyRead_more (s := s.readLanded v at' count noise) action more)) landed
      · exact exec_compactionRead running nothing flight
          ((State.compactionRead_survey (s := s.readLanded v at' count noise) victim _ walks action).trans
            (State.surveyRead_last (s := s.readLanded v at' count noise) last)) (Undisturbed.walk landed)
      · have copied := exec_compactionRead running nothing flight
          ((State.compactionRead_copy (s := s.readLanded v at' count noise) victim _ walks action).trans
            (State.copyRead_eq (s := s.readLanded v at' count noise) ((Compaction.record_iff _ _).2 ⟨k, walk, record⟩) _)) landed
        refine ⟨fun ordinal ident delta gen bump => copied.trans ?_, fun version => copied.trans ?_⟩
        · rw [bump]
          rfl
        · rw [if_pos version]
          rfl
  case survey =>
    intro v words s entries idents
    have built := s.buildSurvey_eq v words
    refine ⟨?_, fun rec member => ?_⟩
    · rw [built, List.map_map]
      exact List.map_id _
    · rw [built] at member
      obtain ⟨x, inside, rfl⟩ := List.mem_map.1 member
      refine ⟨fun ident txn version => surveyCommitted_self version, fun ordinal ident delta gen bump => ?_,
        fun ident txn version => (surveyCommitted_version version).trans (or_congr_left ?_)⟩
      · exact (congrArg (surveyCommitted _ _ _) bump).trans (surveyCommitted_bump _ _ _ _ _ _ _)
      · rw [identsOfTxn_map]
        refine List.mem_map.trans ⟨fun ⟨y, at', same⟩ => ⟨y.1, same ▸ at'⟩, fun ⟨first, at'⟩ => ⟨_, at', rfl⟩⟩
  case copies =>
    intro words e judged whole copied same
    refine ⟨fun flags ident txn gen length blob => ?_, fun flags ident txn gen value tally => ?_,
      fun flags ident txn gen tombstone => ?_⟩
    · subst blob
      exact judgeEntry_copyWords judged whole rfl
    · subst tally
      exact judgeEntry_copyWords judged whole rfl
    · subst tombstone
      exact judgeEntry_copyWords judged whole rfl
  case walks =>
    intro v k rec s victim walk here committed next asks barred arrives releases
    have next_eq {t : State} (same : t.compaction.walk = some k) : t.advance.walk = next t := by rw [State.advance_eq same]
    have marked : s.committedNow v rec = true ↔ committed rec := s.committedNow_iff v rec
    have arrive {ident gen : Nat} (tally : s.walk = s.walkTally ident gen) : arrives ident gen := by
      refine ⟨fun folded => tally.trans (State.walkTally_folded folded), fun unfolded =>
        ⟨fun barred => tally.trans (State.walkTally_barred unfolded barred), fun free low => ?_, fun free high => ?_⟩⟩
      · exact (tally.trans (State.walkTally_free unfolded free)).trans (if_pos low)
      · exact (tally.trans (State.walkTally_free unfolded free)).trans (if_neg (Nat.not_le.2 high))
    refine ⟨fun t ended => State.walk_atEnd (State.recordsLeft_none ended), fun missing => ?_, fun record => ⟨?_, ?_⟩⟩
    · refine State.walk_atEnd ?_
      rw [State.recordsLeft_some walk, Nat.sub_eq_zero_of_le (List.getElem?_eq_none_iff.1 missing)]
    · intro foreign
      exact (State.walk_pass walk victim record (State.walkChoice_foreign (foreign.imp_right (mt marked.1)))).trans
        (next_eq walk)
    · intro ident entry standing
      have standing := marked.2 standing
      refine ⟨fun absent => (State.walk_pass walk victim record (State.walkChoice_absent entry standing absent)).trans
        (next_eq walk), fun e found => ?_⟩
      intro counted current
      refine ⟨fun ordinal delta gen bump stale => ?_, fun ordinal delta gen bump now => ?_, fun txn self version =>
        ⟨fun elsewhere => ?_, fun at' => ⟨fun flags gen length blob => ?_, fun flags gen base tally => ?_,
          fun flags gen tombstone => ?_⟩⟩⟩
      · exact (State.walk_count walk victim record ((State.walkChoice_bump entry standing found bump).trans
          (if_neg stale))).trans (next_eq walk)
      · exact arrive (State.walk_tally walk victim record ((State.walkChoice_bump entry standing found bump).trans
          (if_pos now)))
      · exact (State.walk_count walk victim record (State.walkChoice_elsewhere entry standing found version elsewhere)).trans
          (next_eq walk)
      · exact State.walk_copy walk victim record (State.walkChoice_blob entry standing found at' blob)
      · exact arrive (State.walk_tally walk victim record (State.walkChoice_tallyBase entry standing found at' tally))
      · have choice := State.walkChoice_tombstone entry standing found at' tombstone
        refine ⟨fun kept => ?_, fun dropped => ?_⟩
        · exact State.walk_copy walk victim record (choice.trans (if_neg (mt (State.dropTest_iff found at').1 kept)))
        · exact (State.walk_drop walk victim record (choice.trans (if_pos ((State.dropTest_iff found at').2 dropped)))).trans
            (next_eq walk)

end Sys2Proof.Machine
end

section
/-! Grants of the engine's programs (R111, R112, R115, R116): the entry that its grant places, the placement, the page switch,
and the walk that no page is left for. -/

namespace Sys2Proof.Machine

variable {s : State}

/-! ### A notice and the queue it joins -/

theorem State.sendNotice_queue (s : State) (f : Frame) : (s.sendNotice f).notices.queue = s.notices.queue := by
  unfold State.sendNotice
  split <;> rfl

/-- A notice raised stands last in the queue (R163). -/
theorem State.raise_queue (audible : s.muted = false) (content : NoticeContent) : ∃ n : Notice, n.content = content ∧
    (s.raise content).notices.queue
      = (if s.notices.queue.length < 8 then s.notices.queue else s.notices.queue.drop 1) ++ [n] := by
  rw [raise_unmuted content audible, State.joinNotice]
  exact ⟨_, rfl, State.sendNotice_queue _ _⟩

/-- The newest notice of the queue is queued still after one more is raised. -/
theorem State.raise_keepsNewest (audible : s.muted = false) {kept : List Notice} {n : Notice}
    (queue : s.notices.queue = kept ++ [n]) (content : NoticeContent) : n ∈ (s.raise content).notices.queue := by
  obtain ⟨m, _, after⟩ := State.raise_queue audible content
  rw [after, queue]
  split
  · simp
  · next full =>
    have others : 1 ≤ kept.length := by
      simp only [List.length_append, List.length_singleton] at full
      omega
    rw [List.drop_append_of_le_length others]
    simp

theorem State.endRun_keepsNewest (audible : s.muted = false) {kept : List Notice} {n : Notice}
    (queue : s.notices.queue = kept ++ [n]) : n ∈ s.endRun.notices.queue := by
  have member : n ∈ s.notices.queue := by simp [queue]
  unfold State.endRun
  dsimp only
  split
  · refine State.raise_keepsNewest ?_ (kept := kept) ?_ _
    · exact audible
    · exact queue
  · exact member

/-- A notice raised as a walk ends is queued when the run has ended. -/
theorem State.raise_closeWalk (high : s.supply.resetNHigh = true) (running : s.restarting = none) (content : NoticeContent) :
    ∃ n ∈ (s.raise content).closeWalk.notices.queue, n.content = content := by
  have audible : s.muted = false := muted_eq_false high (by simp [running])
  obtain ⟨n, isContent, queue⟩ := State.raise_queue audible content
  obtain ⟨l, u, raised⟩ := s.raise_eq content
  refine ⟨n, State.endRun_keepsNewest (s := (s.raise content).endWaits.clearDemands) ?_ queue, isContent⟩
  rw [raised]
  exact audible

/-! ### The fold that stands -/

/-- The walk stands at a record of an identifier of the directory. -/
def State.standsAt (s : State) (k : Nat) (rec : SurveyRec) (e : DirEntry) : Prop :=
  s.compaction.walk = some k ∧ s.compaction.survey[k]? = some rec ∧
    ∃ ident, entryIdent rec.entry = some ident ∧ s.entryOf ident = some e

theorem State.recordEntry_iff {e : DirEntry} : s.recordEntry = some e ↔ ∃ k rec, s.standsAt k rec e := by
  simp only [State.recordEntry, Option.bind_eq_some_iff, Compaction.record_iff]
  constructor
  · rintro ⟨ident, ⟨rec, ⟨k, walk, record⟩, entry⟩, found⟩
    exact ⟨k, rec, walk, record, ident, entry, found⟩
  · rintro ⟨k, rec, walk, record, ident, entry, found⟩
    exact ⟨ident, ⟨rec, ⟨k, walk, record⟩, entry⟩, found⟩

theorem State.foldStands_iff (f : FoldEntry) : s.foldStands f = true ↔
    ∃ k rec e value bumps, s.standsAt k rec e ∧ e.body = .tally value bumps ∧ e.gen + 1 = f.gen := by
  simp only [State.foldStands, Option.any_eq_true, State.recordEntry_iff, Bool.and_eq_true, decide_eq_true_eq]
  constructor
  · rintro ⟨e, ⟨k, rec, at'⟩, tally, gen⟩
    cases body : e.body with
    | tally value bumps => exact ⟨k, rec, e, value, bumps, at', body, gen⟩
    | blob length => simp [body] at tally
    | tombstone => simp [body] at tally
  · rintro ⟨k, rec, e, value, bumps, at', body, gen⟩
    exact ⟨e, ⟨k, rec, at'⟩, by rw [body], gen⟩

theorem State.foldLapsed_fold {f : FoldEntry} (action : s.compaction.action = .fold (some f)) :
    s.foldLapsed = !s.foldStands f := by
  rw [State.foldLapsed, action]

theorem State.foldAtGrant_at {k : Nat} {rec : SurveyRec} {e : DirEntry} (at' : s.standsAt k rec e) :
    s.foldAtGrant = if e.gen = entryGen rec.entry then some (composeFold e) else none := by
  obtain ⟨walk, record, ident, entry, found⟩ := at'
  rw [State.foldAtGrant, (Compaction.record_iff _ _).2 ⟨k, walk, record⟩]
  simp [entry, found]

/-! ### The entry of a grant -/

/-- The words that the engine's grant places, and the action they belong to from then on (R111, R112, R116). -/
def State.engineEntry (s : State) : Option (List CellWord × Action) :=
  match s.compaction.action, s.compaction.victim with
  | .copy words _, some _ => some (words, .copy words true)
  | .fold (some f), some _ => some (f.words, .fold (some f))
  | .fold none, some _ => s.foldAtGrant.map (fun f => (f.words, .fold (some f)))
  | .release, some v => some (s.releaseWords v, .release)
  | _, _ => none

theorem State.grantStep_entry (noRun : s.compaction.run = none) {words : List CellWord} {a : Action}
    (entry : s.engineEntry = some (words, a)) : s.grantStep = s.placeEngineRun words a := by
  unfold State.engineEntry at entry
  unfold State.grantStep
  dsimp only
  rw [noRun]
  dsimp only
  split at entry
  case h_3 none victim =>
    obtain ⟨f, fold, same⟩ := Option.map_eq_some_iff.1 entry
    obtain ⟨rfl, rfl⟩ := Prod.mk.inj same
    simp [none, victim, fold]
  case h_5 => simp at entry
  all_goals
    obtain ⟨rfl, rfl⟩ := Prod.mk.inj (Option.some.inj entry)
    simp [*]

section
variable {v : PageIx} (victim : s.compaction.victim = some v)
include victim

theorem State.engineEntry_copy {words : List CellWord} {again : Bool} (action : s.compaction.action = .copy words again) :
    s.engineEntry = some (words, .copy words true) := by
  rw [State.engineEntry, action, victim]

theorem State.engineEntry_fold {f : FoldEntry} (action : s.compaction.action = .fold (some f)) :
    s.engineEntry = some (f.words, .fold (some f)) := by
  rw [State.engineEntry, action, victim]

theorem State.engineEntry_release (action : s.compaction.action = .release) :
    s.engineEntry = some (s.releaseWords v, .release) := by
  rw [State.engineEntry, action, victim]

theorem State.engineEntry_compose (action : s.compaction.action = .fold none) {k : Nat} {rec : SurveyRec} {e : DirEntry}
    (at' : s.standsAt k rec e) (current : e.gen = entryGen rec.entry) :
    s.engineEntry = some ((composeFold e).words, .fold (some (composeFold e))) := by
  rw [State.engineEntry, action, victim]
  dsimp only
  rw [State.foldAtGrant_at at', if_pos current]
  rfl

end

/-! ### Its placement -/

theorem State.placeEngineRun_fits {p : PageIx} {a : Nat} (opened : s.openPage = some p)
    (append : s.array.appendPoint = some a) {words : List CellWord} (fits : words.length ≤ 128 - a) (action : Action) :
    s.placeEngineRun words action = { s with
      compaction := { s.compaction with
        action, run := some { page := p, first := a, words, done := 0 }, spend := s.compaction.spend + words.length }
      array := { s.array with
        appendPoint := some (a + words.length)
        inFlight := some { owner := some .compaction, op := .program p a (words.getD 0 blankCell) } } } := by
  have free : s.freeCells = 128 - a := by rw [State.freeCells, opened, append]
  have fits : s.fits words.length = true := (s.fits_iff _).2 ⟨by simp [opened], by rwa [free]⟩
  simp only [State.placeEngineRun, fits, if_true, opened, Option.getD_some, State.reserve, append]
  rfl

theorem State.placeEngineRun_unfit {words : List CellWord} (unfit : s.openPage = none ∨ s.freeCells < words.length)
    (action : Action) : s.placeEngineRun words action = match s.pageSwitch .compaction with
      | some t => t
      | none => s.starveWalk := by
  have unfit : ¬s.fits words.length = true := by
    rw [s.fits_iff]
    rintro ⟨opened, fits⟩
    exact unfit.elim opened (Nat.not_lt.2 fits)
  refine (if_neg unfit).trans ?_
  cases s.pageSwitch .compaction <;> rfl

/-- The walk starved of a page: the victim SEALED, the engine idle, and SPACE_LOW raised (R115). -/
theorem State.starveWalk_spec {v : PageIx} (victim : s.compaction.victim = some v) (noRun : s.compaction.run = none) :
    (s.starveWalk).page v = { s.page v with state := .sealed } ∧ s.starveWalk.compaction = Compaction.idle ∧
      (s.restarting = none → s.supply.resetNHigh = true →
        ∃ n ∈ s.starveWalk.notices.queue, n.content = .spaceLow s.starveWalk.erasedCount) := by
  have left : s.leaveVictim = { s.setPage v { s.page v with state := .sealed } with
      compaction := { s.compaction with run := none } } := by
    rw [State.leaveVictim_some victim, noRun]
    rfl
  obtain ⟨l, u, raised⟩ := s.leaveVictim.raise_eq (.spaceLow s.leaveVictim.erasedCount)
  obtain ⟨l', u', closed⟩ := (s.leaveVictim.raise (.spaceLow s.leaveVictim.erasedCount)).closeWalk_eq
  have table : s.starveWalk.array.table = s.leaveVictim.array.table :=
    (congrArg (fun t => t.array.table) closed).trans (congrArg (fun t => t.array.table) raised)
  refine ⟨?_, ?_, fun running high => ?_⟩
  · have page : s.starveWalk.page v = s.leaveVictim.page v := congrArg (fun t => t.get v) table
    rw [page, left]
    exact (State.page_setPage s v v _).trans (if_pos rfl)
  · exact congrArg State.compaction closed
  · have count : s.starveWalk.erasedCount = s.leaveVictim.erasedCount := by
      unfold State.erasedCount State.countIn State.pagesIn State.page
      rw [table]
    rw [count]
    exact State.raise_closeWalk (by rw [left]; exact high) (by rw [left]; exact running) _

end Sys2Proof.Machine
end

section
/-! Completions of the engine's programs (R79, R111 to R116): what an entry that stands whole does to the directory and to the
pages, and where the walk goes from there. -/

namespace Sys2Proof.Machine

variable {s : State}

/-! ### A cell of the engine's has completed -/

section
variable {run : Run} (inRun : s.compaction.run = some run)
include inRun

theorem State.compactionCellDone_inside (short : run.done + 1 < run.words.length) : s.compactionCellDone .ok =
    let t : State := { s with compaction := { s.compaction with run := some { run with done := run.done + 1 } } }
    if s.compaction.stopping then t.abandonWalk else t.request .compaction (some .program) := by
  simp [State.compactionCellDone, inRun, Nat.not_le.2 short]

theorem State.compactionCellDone_whole (last : run.words.length = run.done + 1) :
    s.compactionCellDone .ok = s.engineEntryDone { page := run.page, cell := run.first } := by
  simp [State.compactionCellDone, inRun, last]

/-- s after a failed program of the engine: the run faulted, the failure counted. -/
def State.engineFailed (s : State) (run : Run) : State :=
  { s.faultRun run with compaction := { s.compaction with run := none, failures := s.compaction.failures + 1 } }

theorem State.compactionCellDone_again (few : s.compaction.failures + 1 < 3) : s.compactionCellDone .verifyFail =
    if s.compaction.stopping then (s.engineFailed run).abandonWalk
    else (s.engineFailed run).request .compaction (some .program) := by
  have few : ¬3 ≤ s.compaction.failures + 1 := by omega
  simp only [State.compactionCellDone, inRun]
  exact if_neg few

theorem State.compactionCellDone_exhausts (third : s.compaction.failures = 2) :
    s.compactionCellDone .verifyFail = (s.engineFailed run).exhaustWalk run.page := by
  simp only [State.compactionCellDone, inRun]
  exact if_pos (by omega : 3 ≤ s.compaction.failures + 1)

end

/-! ### An entry of the engine's stands whole -/

/-- s with the engine's run over and its failures counted anew. -/
def State.runSettled (s : State) : State := { s with compaction := { s.compaction with failures := 0, run := none } }

/-- The walk goes on, or ends where it has to stop (R120). -/
def State.goesOn (s : State) : State := if s.compaction.stopping then s.abandonWalk else s.walkNext

theorem State.engineEntryDone_eq (s : State) (loc : Loc) : s.engineEntryDone loc =
    match s.compaction.action, s.compaction.victim, s.compaction.record with
    | .copy _ _, some v, some r => (s.runSettled.copyDone v r loc).goesOn
    | .fold (some f), some _, some r => (s.runSettled.foldDone r f loc).goesOn
    | .release, some _, _ => s.runSettled.releaseDone
    | _, _, _ => s.runSettled := rfl

section
variable {v : PageIx} (victim : s.compaction.victim = some v) (loc : Loc)
include victim

theorem State.engineEntryDone_copy {words : List CellWord} {again : Bool} (action : s.compaction.action = .copy words again)
    {rec : SurveyRec} (record : s.compaction.record = some rec) :
    s.engineEntryDone loc = (s.runSettled.copyDone v rec loc).goesOn := by
  rw [State.engineEntryDone_eq, action, victim, record]

theorem State.engineEntryDone_fold {f : FoldEntry} (action : s.compaction.action = .fold (some f))
    {rec : SurveyRec} (record : s.compaction.record = some rec) :
    s.engineEntryDone loc = (s.runSettled.foldDone rec f loc).goesOn := by
  rw [State.engineEntryDone_eq, action, victim, record]

theorem State.engineEntryDone_release (action : s.compaction.action = .release) :
    s.engineEntryDone loc = s.runSettled.releaseDone := by
  rw [State.engineEntryDone_eq, action, victim]

end

/-! ### Superseded entries and moved cells -/

/-- The victim count raised where entries of an identifier are superseded behind the walk (R16). -/
theorem State.countSuperseded_eq (s : State) (ident : Nat) (locs : List Loc) : s.countSuperseded ident locs =
    if (locs.filter (fun l => s.passedInVictim l)).length = 0 then s
    else s.addVictimCount ident (locs.filter (fun l => s.passedInVictim l)).length := by
  have passed : locs.filter s.compaction.passedLoc = locs.filter (fun l => s.passedInVictim l) :=
    List.filter_congr fun l _ => passedLoc_eq s l
  rw [State.countSuperseded, passed]

/-- The walk has passed the record that it copies or folds. -/
theorem State.passedInVictim_here {v : PageIx} {k : Nat} {rec : SurveyRec} (victim : s.compaction.victim = some v)
    (walk : s.compaction.walk = some k) (record : s.compaction.survey[k]? = some rec)
    (engaged : engaged s.compaction.action = true) : s.passedInVictim { page := v, cell := rec.first } = true := by
  rw [← passedLoc_eq, Compaction.passedLoc, victim, decide_eq_true rfl, Bool.true_and, List.any_eq_true]
  refine ⟨(rec, k), List.mem_zipIdx_iff_getElem?.2 record, ?_⟩
  simp [Compaction.passed, walk, engaged]

theorem State.countSuperseded_passed {l : Loc} (passed : s.passedInVictim l = true) (ident : Nat) :
    s.countSuperseded ident [l] = s.addVictimCount ident 1 := by
  simp [State.countSuperseded_eq, passed]

/-- Live cells move from one page to another (R79). -/
theorem State.moveLive_spec (s : State) (from' to' : PageIx) (n : Nat) : ∃ table,
    (s.addLive to' n).subLive from' n = { s with array := { s.array with table } } ∧
    ∀ q, table.get q = { s.page q with
      live := (s.page q).live + (if q = to' then n else 0) - if q = from' then n else 0 } := by
  refine ⟨((s.addLive to' n).subLive from' n).array.table, rfl, fun q => (State.subLive_page _ from' n q).trans ?_⟩
  rw [State.addLive_page]
  simp only [eq_comm]

/-! ### A copy stands whole -/

section
variable {v : PageIx} {rec : SurveyRec} {ident : Nat}

theorem State.copyDone_version {txn : Nat} {self : Bool} (version : versionOf rec.entry = some (ident, txn, self))
    (copy : Loc) : s.copyDone v rec copy
      = s.versionCopied ident (entryCells rec.entry) { page := v, cell := rec.first } copy := by
  unfold State.copyDone
  cases kind : rec.entry <;> simp_all [versionOf, entryIdent]

theorem State.copyDone_bump {ordinal delta gen : Nat} (bump : rec.entry = .bump ordinal ident delta gen) (copy : Loc) :
    s.copyDone v rec copy = s.bumpCopied ident ordinal { page := v, cell := rec.first } copy := by
  rw [State.copyDone, bump]

variable {e : DirEntry} (found : s.entryOf ident = some e) {original : Loc}
include found

/-- A copy whose original the directory names no longer is dead on arrival (R14). -/
theorem State.versionCopied_dead (elsewhere : e.loc ≠ original) (cells : Nat) (copy : Loc) :
    s.versionCopied ident cells original copy = s.addStale ident 1 := by
  rw [State.versionCopied, found]
  exact if_neg elsewhere

theorem State.versionCopied_moves (here : e.loc = original) (passed : s.passedInVictim original = true) (cells : Nat)
    (copy : Loc) : ∃ table, s.versionCopied ident cells original copy = { s with
        directory := Machine.putEntry s.directory { e with loc := copy, stale := e.stale + 1 }
        compaction := { s.compaction with victimCounts := raiseCount s.compaction.victimCounts ident 1 }
        array := { s.array with table } } ∧
      ∀ q, table.get q = { s.page q with
        live := (s.page q).live + (if q = copy.page then cells else 0) - if q = original.page then cells else 0 } := by
  let t := s.putEntry { e with loc := copy, stale := e.stale + 1 }
  obtain ⟨table, moved, pages⟩ := t.moveLive_spec original.page copy.page cells
  refine ⟨table, ?_, pages⟩
  rw [State.versionCopied, found]
  refine (if_pos here).trans ?_
  change ((t.addLive copy.page cells).subLive original.page cells).countSuperseded ident [original] = _
  rw [moved]
  refine State.countSuperseded_passed ?_ ident
  exact passed

theorem State.bumpCopied_dead {ordinal : Nat} (gone : ({ ordinal, loc := original } : BumpLoc) ∉ bumpsOf e) (copy : Loc) :
    s.bumpCopied ident ordinal original copy = s.addStale ident 1 := by
  rw [State.bumpCopied, found]
  dsimp only
  cases body : e.body with
  | tally value bumps =>
    rw [bumpsOf, body] at gone
    exact if_neg gone
  | blob length => rfl
  | tombstone => rfl

theorem State.bumpCopied_moves {ordinal value : Nat} {bumps : List BumpLoc} (body : e.body = .tally value bumps)
    (member : ({ ordinal, loc := original } : BumpLoc) ∈ bumps) (passed : s.passedInVictim original = true) (copy : Loc) :
    ∃ table, s.bumpCopied ident ordinal original copy = { s with
        directory := Machine.putEntry s.directory { e with
          stale := e.stale + 1
          body := .tally value (bumps.map (fun b => if b = { ordinal, loc := original } then { ordinal, loc := copy } else b)) }
        compaction := { s.compaction with victimCounts := raiseCount s.compaction.victimCounts ident 1 }
        array := { s.array with table } } ∧
      ∀ q, table.get q = { s.page q with
        live := (s.page q).live + (if q = copy.page then 1 else 0) - if q = original.page then 1 else 0 } := by
  let t := s.putEntry { e with
    stale := e.stale + 1
    body := .tally value (bumps.map (fun b => if b = { ordinal, loc := original } then { ordinal, loc := copy } else b)) }
  obtain ⟨table, moved, pages⟩ := t.moveLive_spec original.page copy.page 1
  refine ⟨table, ?_, pages⟩
  rw [State.bumpCopied, found]
  dsimp only
  rw [body]
  refine (if_pos member).trans ?_
  change ((t.addLive copy.page 1).subLive original.page 1).countSuperseded ident [original] = _
  rw [moved]
  refine State.countSuperseded_passed ?_ ident
  exact passed

/-! ### A fold stands whole -/

/-- A fold that completes, with the victim counts as the model writes them (R15, R77). -/
theorem State.applyFold_eq (gen value : Nat) (loc : Loc) :
    let passed := ((e.loc :: (bumpsOf e).map BumpLoc.loc).filter (fun l => s.passedInVictim l)).length
    ∃ table, s.applyFold ident gen value loc = { s with
        directory := Machine.putEntry s.directory
          { e with gen, loc, stale := e.stale + 1 + (bumpsOf e).length, body := .tally value [] }
        compaction := if passed = 0 then s.compaction else
          { s.compaction with victimCounts := raiseCount s.compaction.victimCounts ident passed }
        array := { s.array with table } } ∧
      ∀ q, table.get q = { s.page q with live := (s.page q).live - e.cellsOn q + if loc.page = q then 2 else 0 } := by
  intro passed
  obtain ⟨table, dropped, pages⟩ := s.dropLive_spec e
  let t : State := { s with
    directory := Machine.putEntry s.directory
      { e with gen, loc, stale := e.stale + 1 + (bumpsOf e).length, body := .tally value [] }
    compaction := if passed = 0 then s.compaction else
      { s.compaction with victimCounts := raiseCount s.compaction.victimCounts ident passed }
    array := { s.array with table } }
  have counted := State.countSuperseded_eq { s with array := { s.array with table } } ident
    (e.loc :: (bumpsOf e).map BumpLoc.loc)
  have left : (s.dropLive e).countSuperseded ident (e.loc :: (bumpsOf e).map BumpLoc.loc) = { s with
      compaction := if passed = 0 then s.compaction else
        { s.compaction with victimCounts := raiseCount s.compaction.victimCounts ident passed }
      array := { s.array with table } } := by
    rw [dropped, counted]
    by_cases nothing : passed = 0
    · rw [if_pos nothing]
      exact if_pos nothing
    · rw [if_neg nothing]
      exact if_neg nothing
  refine ⟨(t.addLive loc.page 2).array.table, ?_, fun q => ?_⟩
  · rw [State.applyFold, found]
    dsimp only
    rw [left]
    rfl
  · refine (State.addLive_page t loc.page 2 q).trans ?_
    rw [show t.page q = _ from pages q]

end

end Sys2Proof.Machine
end

section
/-! The RELEASE and the ends of a walk (R17, R114, R116, R120): the drop candidates settled, the walk that has failed for the
third time, and the walk that stops at a completion. -/

namespace Sys2Proof.Machine

variable {s : State}

/-! ### The drop candidates -/

/-- A drop candidate is still a tombstone at its location. -/
def State.drops (s : State) (ident : Nat) (at' : Loc) : Bool :=
  (s.entryOf ident).any (fun e => e.body = .tombstone ∧ e.loc = at')

/-- An identifier that a list of drop candidates takes out of the directory. -/
def State.dropped (s : State) (candidates : List (Nat × Loc)) (ident : Nat) : Bool :=
  candidates.any (fun d => d.1 = ident ∧ s.drops d.1 d.2)

theorem State.settleDrop_kept {d : Nat × Loc} (kept : s.drops d.1 d.2 = false) : s.settleDrop d = s := by
  rw [State.settleDrop]
  unfold State.drops at kept
  cases found : s.entryOf d.1 with
  | none => rfl
  | some e =>
    have kept : ¬(isTombstone e = true ∧ e.loc = d.2) := by
      rintro ⟨tombstone, loc⟩
      unfold isTombstone at tombstone
      cases body : e.body <;> simp_all
    exact if_neg kept

theorem State.settleDrop_drops {d : Nat × Loc} (drops : s.drops d.1 d.2 = true) : s.settleDrop d = { s.subLive d.2.page 1 with
    directory := dropEntry s.directory d.1
    compaction := { s.compaction with
      victimCounts := s.compaction.victimCounts.filter (fun x => x.1 ≠ d.1) } } := by
  obtain ⟨e, found, is⟩ := (Option.any_eq_true _ _).1 drops
  obtain ⟨body, loc⟩ := of_decide_eq_true is
  rw [State.settleDrop, found]
  exact if_pos ⟨by rw [isTombstone, body], loc⟩

/-- What a candidate that has dropped leaves for the candidates after it. -/
theorem State.settleDrop_after {d : Nat × Loc} (drops : s.drops d.1 d.2 = true) (ident : Nat) (at' : Loc) :
    (s.settleDrop d).drops ident at' = (decide (ident ≠ d.1) && s.drops ident at') := by
  rw [State.settleDrop_drops drops]
  have found : findEntry (dropEntry s.directory d.1) ident = if d.1 = ident then none else s.entryOf ident :=
    findEntry_dropEntry d.1 ident
  simp only [State.drops, State.entryOf] at found ⊢
  rw [found]
  by_cases same : d.1 = ident
  · simp [same]
  · simp [same, Ne.symm same]

theorem State.dropped_after {d : Nat × Loc} (drops : s.drops d.1 d.2 = true) (candidates : List (Nat × Loc)) {ident : Nat}
    (other : ident ≠ d.1) : (s.settleDrop d).dropped candidates ident = s.dropped candidates ident := by
  simp only [State.dropped, State.settleDrop_after drops]
  refine congrArg (fun f => candidates.any f) (funext fun x => decide_eq_decide.2 (and_congr_right fun same => ?_))
  have apart : x.1 ≠ d.1 := same ▸ other
  simp [apart]

theorem State.dropped_cons (d : Nat × Loc) (candidates : List (Nat × Loc)) (ident : Nat) :
    s.dropped (d :: candidates) ident = (decide (d.1 = ident ∧ s.drops d.1 d.2) || s.dropped candidates ident) := rfl

/-- Two filters one after the other, the first on an identifier, as the drop candidates filter at once. -/
theorem filter_dropped {α : Type} (xs : List α) (key : α → Nat) {d : Nat × Loc} (drops : s.drops d.1 d.2 = true)
    (candidates : List (Nat × Loc)) :
    (xs.filter (fun x => key x ≠ d.1)).filter (fun x => (s.settleDrop d).dropped candidates (key x) = false)
      = xs.filter (fun x => s.dropped (d :: candidates) (key x) = false) := by
  rw [List.filter_filter]
  refine List.filter_congr fun x _ => ?_
  rw [State.dropped_cons]
  by_cases same : key x = d.1
  · simp [same, drops]
  · simp [State.dropped_after drops candidates same, Ne.symm same, same]

/-- The candidates that are still tombstones at their locations leave the directory, their victim counts and their live cells
(R17, R116). -/
theorem settleDrops_spec : ∀ (candidates : List (Nat × Loc)) (s : State), ∃ table,
    candidates.foldl State.settleDrop s = { s with
      directory := s.directory.filter (fun e => s.dropped candidates e.ident = false)
      compaction := { s.compaction with
        victimCounts := s.compaction.victimCounts.filter (fun x => s.dropped candidates x.1 = false) }
      array := { s.array with table } } ∧
    ((candidates.map (fun d => d.1)).Nodup → ∀ q, table.get q = { s.page q with
      live := (s.page q).live - (candidates.filter (fun d => s.drops d.1 d.2 ∧ d.2.page = q)).length })
  | [], s => by
    have all {α : Type} (xs : List α) (key : α → Nat) : xs.filter (fun x => s.dropped [] (key x) = false) = xs :=
      List.filter_eq_self.2 fun x _ => rfl
    refine ⟨s.array.table, ?_, fun _ q => rfl⟩
    rw [all, all]
    rfl
  | d :: candidates, s => by
    obtain ⟨table, left, pages⟩ := settleDrops_spec candidates (s.settleDrop d)
    refine ⟨table, ?_, fun apart q => ?_⟩
    · rw [List.foldl_cons, left]
      cases drops : s.drops d.1 d.2 with
      | false =>
        have same (ident : Nat) : s.dropped (d :: candidates) ident = s.dropped candidates ident := by
          simp [State.dropped_cons, drops]
        rw [State.settleDrop_kept drops]
        simp only [same]
      | true =>
        rw [← filter_dropped s.directory DirEntry.ident drops, ← filter_dropped s.compaction.victimCounts Prod.fst drops,
          State.settleDrop_drops drops]
        rfl
    · obtain ⟨new, apart⟩ := List.nodup_cons.1 apart
      rw [pages apart]
      cases drops : s.drops d.1 d.2 with
      | false =>
        rw [State.settleDrop_kept drops]
        simp [drops]
      | true =>
        have after : candidates.filter (fun x => (s.settleDrop d).drops x.1 x.2 ∧ x.2.page = q)
            = candidates.filter (fun x => s.drops x.1 x.2 ∧ x.2.page = q) := by
          refine List.filter_congr fun x member => ?_
          have other : x.1 ≠ d.1 := fun same => new (List.mem_map.2 ⟨x, member, same⟩)
          simp [State.settleDrop_after drops, other]
        have page : (s.settleDrop d).page q = (s.subLive d.2.page 1).page q := by rw [State.settleDrop_drops drops]; rfl
        rw [after, page, State.subLive_page]
        by_cases here : d.2.page = q
        · simp [drops, here, Nat.sub_sub, Nat.add_comm 1]
        · simp [here]

/-- The RELEASE stands whole: the candidates are settled, and the erase is requested (R116). -/
theorem State.releaseDone_spec (s : State) : ∃ table, s.releaseDone = { s with
      directory := s.directory.filter (fun e => s.dropped s.compaction.drops e.ident = false)
      compaction := { s.compaction with
        phase := .erase, action := .erase false, drops := []
        victimCounts := s.compaction.victimCounts.filter (fun x => s.dropped s.compaction.drops x.1 = false) }
      array := { s.array with table, compactionRequest := some .erase } } ∧
    ((s.compaction.drops.map (fun d => d.1)).Nodup → ∀ q, table.get q = { s.page q with
      live := (s.page q).live - (s.compaction.drops.filter (fun d => s.drops d.1 d.2 ∧ d.2.page = q)).length }) := by
  obtain ⟨table, left, pages⟩ := settleDrops_spec s.compaction.drops s
  refine ⟨table, ?_, pages⟩
  rw [State.releaseDone, left]
  rfl

/-! ### The third failure -/

theorem State.sealOpenPage_state (s : State) (q : PageIx) :
    (s.sealOpenPage.page q).state = if s.openPage = some q then .sealed else (s.page q).state := by
  unfold State.sealOpenPage
  cases opened : s.openPage with
  | none => rfl
  | some p =>
    refine (congrArg PageRec.state (State.page_setPage s p q _)).trans ?_
    by_cases same : p = q
    · simp [same]
    · simp [same]

/-- A page that is not OPEN and is not opened leaves the OPEN page as it is. -/
theorem State.openPage_setPage {v : PageIx} {r : PageRec} (was : (s.page v).state ≠ .opened) (is : r.state ≠ .opened) :
    (s.setPage v r).openPage = s.openPage := by
  have same (q : PageIx) : ((s.setPage v r).page q).state = .opened ↔ (s.page q).state = .opened := by
    rw [State.page_setPage]
    by_cases here : v = q
    · subst here
      simp [was, is]
    · simp [here]
  simp only [State.openPage, State.pagesIn, same]

/-- The walk ended by a third failure (R114). -/
theorem State.exhaustWalk_spec {v : PageIx} (victim : s.compaction.victim = some v) (noRun : s.compaction.run = none)
    (state : (s.page v).state = .victim) (failed : PageIx) :
    let t := s.exhaustWalk failed
    (t.page v).state = .sealed ∧ (∀ p, s.openPage = some p → (t.page p).state = .sealed) ∧
      t.array.appendPoint = (if s.openPage = none then s.array.appendPoint else none) ∧
      t.array.faulted = s.array.faulted ∧ t.compaction = Compaction.idle ∧
      (s.restarting = none → s.supply.resetNHigh = true →
        ∃ n ∈ t.notices.queue, n.content = .media failed .programRetriesExhausted) := by
  intro t
  have left : s.leaveVictim = { s.setPage v { s.page v with state := .sealed } with
      compaction := { s.compaction with run := none } } := by
    rw [State.leaveVictim_some victim, noRun]
    rfl
  have opened : s.leaveVictim.openPage = s.openPage := by
    rw [left]
    exact State.openPage_setPage (by simp [state]) (by simp)
  have sealed := s.leaveVictim.sealOpenPage_eq
  have states := s.leaveVictim.sealOpenPage_state
  rw [opened] at sealed states
  obtain ⟨l, u, raised⟩ := s.leaveVictim.sealOpenPage.raise_eq (.media failed .programRetriesExhausted)
  obtain ⟨l', u', closed⟩ := (s.leaveVictim.sealOpenPage.raise (.media failed .programRetriesExhausted)).closeWalk_eq
  have array : t.array = { s.leaveVictim.sealOpenPage.array with compactionRequest := none } :=
    (congrArg State.array closed).trans (by rw [raised])
  have pages (q : PageIx) : (t.page q).state = if s.openPage = some q then .sealed else (s.leaveVictim.page q).state :=
    (congrArg (fun a => (a.table.get q).state) array).trans (states q)
  refine ⟨?_, fun p isOpen => ?_, ?_, ?_, congrArg State.compaction closed, fun running high => ?_⟩
  · rw [pages, (State.leaveVictim_victim victim).1, ite_self]
  · rw [pages, if_pos isOpen]
  · rw [array, sealed]
    cases isOpen : s.openPage with
    | none => rw [left]; rfl
    | some p => rfl
  · rw [array, sealed]
    cases isOpen : s.openPage with
    | none => rw [left]; rfl
    | some p => rw [left]; rfl
  · have same : s.leaveVictim.sealOpenPage.supply = s.supply ∧ s.leaveVictim.sealOpenPage.restarting = s.restarting := by
      rw [sealed, left]
      exact ⟨rfl, rfl⟩
    exact State.raise_closeWalk (by rw [same.1]; exact high) (by rw [same.2]; exact running) _

/-! ### A walk that stops at a completion -/

/-- What a walk given up leaves of the directory and the array, its run faulted (R120). -/
theorem State.abandonWalk_keeps {v : PageIx} (victim : s.compaction.victim = some v) :
    s.abandonWalk.directory = s.directory ∧ s.abandonWalk.array.cells = s.array.cells ∧
      s.abandonWalk.array.faulted = (s.faultRunIfAny s.compaction.run).array.faulted := by
  obtain ⟨l, u, closed⟩ := s.leaveVictim.closeWalk_eq
  rw [State.abandonWalk, closed, State.leaveVictim_some victim]
  cases s.compaction.run <;> exact ⟨rfl, rfl, rfl⟩

end Sys2Proof.Machine
end

section
/-! The engine's programs (R79, R111 to R116): the grants, the completions, and the theorem that puts them together. -/

namespace Sys2Proof.Machine

variable {s : State}

theorem Undisturbed.lapseFold {s₀ : State} (h : Undisturbed s₀ s) : Undisturbed s₀ s.lapseFold := by
  refine Undisturbed.walk ?_
  exact h.faultRunIfAny s.compaction.run

/-! ### The grants -/

section
variable (running : s.restarting = none) (still : s.array.inFlight = none) (chosen : s.chooseRequester = some .compaction)
include running still chosen

/-- A grant of the engine whose step leaves the executor as it was. -/
theorem exec_engineGranted (standing : s.foldLapsed = false) {t : State}
    (step : (s.request .compaction none).grantStep = t) (nothing : t.nothingToTake) : exec .arbiterGrant s = .next t :=
  exec_granted running still chosen ((State.grant_compaction standing).trans step) nothing

/-- The entry of a grant that does not fit: a page switch, or the walk starved of a page (R111, R115). -/
theorem exec_engineUnfit (standing : s.foldLapsed = false) (nothing : s.nothingToTake) (noRun : s.compaction.run = none)
    {v : PageIx} (victim : s.compaction.victim = some v) {words : List CellWord} {a : Action}
    (entry : s.engineEntry = some (words, a)) (unfit : s.openPage = none ∨ s.freeCells < words.length) :
    let granted := s.request .compaction none
    (∀ u, granted.pageSwitch .compaction = some u → exec .arbiterGrant s = .next u) ∧
    (granted.pageSwitch .compaction = none → ∃ t, exec .arbiterGrant s = .next t ∧
      t.page v = { s.page v with state := .sealed } ∧ t.compaction = Compaction.idle ∧
      (s.supply.resetNHigh = true → ∃ n ∈ t.notices.queue, n.content = .spaceLow t.erasedCount)) := by
  intro granted
  have step := (State.grantStep_entry (s := granted) noRun entry).trans (State.placeEngineRun_unfit (s := granted) unfit a)
  have same : Undisturbed s granted := Undisturbed.refl s
  refine ⟨fun u switched => ?_, fun none => ⟨granted.starveWalk, ?_, ?_⟩⟩
  · rw [switched] at step
    exact exec_engineGranted running still chosen standing step ((same.pageSwitch switched).nothingToTake nothing)
  · rw [none] at step
    exact exec_engineGranted running still chosen standing step (same.starveWalk.nothingToTake nothing)
  · obtain ⟨page, idle, notice⟩ := State.starveWalk_spec (s := granted) victim noRun
    exact ⟨page, idle, notice running⟩

/-- The entry of a grant that fits goes to the append point (R111). -/
theorem exec_engineFits (standing : s.foldLapsed = false) (nothing : s.nothingToTake) (noRun : s.compaction.run = none)
    {words : List CellWord} {action : Action} (entry : s.engineEntry = some (words, action)) {p : PageIx} {a : Nat}
    (opened : s.openPage = some p) (append : s.array.appendPoint = some a) (fits : words.length ≤ 128 - a) :
    exec .arbiterGrant s = .next { s with
      compaction := { s.compaction with
        action, run := some { page := p, first := a, words, done := 0 }, spend := s.compaction.spend + words.length }
      array := { s.array with
        compactionRequest := none, appendPoint := some (a + words.length)
        inFlight := some { owner := some .compaction, op := .program p a (words.getD 0 blankCell) } } } :=
  exec_engineGranted running still chosen standing
    ((State.grantStep_entry (s := s.request .compaction none) noRun entry).trans
      (State.placeEngineRun_fits (s := s.request .compaction none) opened append fits action)) nothing

/-- A lapsed fold's run ends early, and the walk moves on (log entry 28). -/
theorem exec_engineLapsed (lapsed : s.foldLapsed = true) (nothing : s.nothingToTake) :
    exec .arbiterGrant s = .next (s.request .compaction none).lapseFold := by
  exact exec_granted running still chosen (if_pos lapsed)
    (((Undisturbed.refl s).request .compaction none).lapseFold.nothingToTake nothing)

end

/-- The switch that seals the OPEN page is made, or the engine chooses again (R108, log entry 18). -/
theorem State.grantStep_seal (noRun : s.compaction.run = none) (action : s.compaction.action = .seal) :
    s.grantStep = match s.pageSwitch .compaction with
      | some t => t
      | none => State.choose { s with compaction := { s.compaction with action := .none } } := by
  unfold State.grantStep
  dsimp only
  rw [noRun]
  dsimp only
  rw [action] <;> cases s.pageSwitch .compaction <;> rfl

/-- No fold is composed where the generation is no longer the directory's: the walk moves on (R15). -/
theorem State.grantStep_superseded (noRun : s.compaction.run = none) {v : PageIx} (victim : s.compaction.victim = some v)
    (action : s.compaction.action = .fold none) {k : Nat} {rec : SurveyRec} {e : DirEntry} (at' : s.standsAt k rec e)
    (other : e.gen ≠ entryGen rec.entry) : s.grantStep = s.walkNext := by
  have fold : s.foldAtGrant = none := (State.foldAtGrant_at at').trans (if_neg other)
  unfold State.grantStep
  dsimp only
  rw [noRun]
  dsimp only
  rw [action, victim]
  dsimp only
  rw [fold]

theorem State.lapseFold_eq {k : Nat} (walk : s.compaction.walk = some k) : s.lapseFold = State.walk
    { s.faultRunIfAny s.compaction.run with compaction := { s.compaction with
      run := none, failures := 0, action := .none
      walk := if k + 1 < s.compaction.survey.length then some (k + 1) else none } } := by
  have same : (s.faultRunIfAny s.compaction.run).compaction = s.compaction := by cases s.compaction.run <;> rfl
  refine congrArg State.walk ((State.advance_eq (k := k) ?_).trans ?_)
  · dsimp only
    rw [same, walk]
  · dsimp only
    rw [same]

theorem Undisturbed.nothing_choose {t : State} (nothing : t.nothingToTake) : t.choose.nothingToTake :=
  (Undisturbed.refl t).choose.nothingToTake nothing

/-- The words of a fold, FOLD and SELF set (R77, R188). -/
theorem composeFold_tally {e : DirEntry} {value : Nat} {bumps : List BumpLoc} (body : e.body = .tally value bumps) :
    composeFold e = { gen := e.gen + 1, value, words := entryWords (.tallyBase 3 e.ident 0 (e.gen + 1) value) [] } := by
  rw [composeFold, body]
  rfl

/-! ### The completions -/

section
variable (running : s.restarting = none) {run : Run} {w : CellWord}
  (flight : s.array.inFlight = some { owner := some .compaction, op := .program run.page (run.first + run.done) w })
include running flight

/-- A cell of the engine's has completed, and the executor has nothing to take. -/
theorem exec_engineCellDone {outcome : ArrayOutcome} {t : State}
    (done : (s.landedAt run.page (run.first + run.done) (landedContent w outcome)
      (run.first + run.done + 1)).compactionCellDone outcome = t) (nothing : t.nothingToTake) :
    exec (.programComplete outcome) s = .next t :=
  exec_programCompleted running flight done nothing

variable (nothing : s.nothingToTake) (inRun : s.compaction.run = some run) (last : run.words.length = run.done + 1)
  {v : PageIx} (victim : s.compaction.victim = some v)
include nothing inRun last victim

/-- An entry of the walk stands whole: the walk goes on past its record, or ends where it has to stop. -/
theorem exec_engineSettles {k : Nat} (walk : s.compaction.walk = some k) {directory : List DirEntry}
    {counts : List (Nat × Nat)} {table : Vector PageRec 32} :
    let good := s.landedAt run.page (run.first + run.done) (.word w) (run.first + run.done + 1)
    let after : State := { good with
      directory
      compaction := { s.compaction with victimCounts := counts, failures := 0, run := none }
      array := { good.array with table } }
    good.engineEntryDone { page := run.page, cell := run.first } = after.goesOn →
      (s.compaction.stopping = false → exec (.programComplete .ok) s = .next (State.walk { after with
        compaction := { after.compaction with
          action := .none, walk := if k + 1 < s.compaction.survey.length then some (k + 1) else none } })) ∧
      (s.compaction.stopping = true → walkGivenUp (exec (.programComplete .ok) s) v s.store ∧
        ∀ t, exec (.programComplete .ok) s = .next t → t.directory = directory ∧ t.array.cells = good.array.cells) := by
  intro good after settled
  have done : good.compactionCellDone .ok = after.goesOn := (State.compactionCellDone_whole (s := good) inRun last).trans settled
  have rest {t : State} (same : Undisturbed after t) : t.nothingToTake := same.nothingToTake nothing
  refine ⟨fun walks => ?_, fun stops => ?_⟩
  · refine exec_engineCellDone running flight (done.trans ((if_neg ?_).trans ?_)) (rest (Undisturbed.walk ?_))
    · rw [show after.compaction.stopping = false from walks]
      simp
    · rw [State.walkNext, State.advance_eq (s := after) (k := k) walk]
    · exact Undisturbed.refl after
  · have given := exec_engineCellDone running flight (outcome := .ok) (done.trans (if_pos stops))
      (rest (Undisturbed.refl after).abandonWalk)
    rw [given]
    obtain ⟨sameDirectory, sameCells, _⟩ := State.abandonWalk_keeps (s := after) victim
    refine ⟨State.abandonWalk_givenUp (s := after) victim, fun t is => ?_⟩
    obtain rfl := Host.Outcome.next.inj is
    exact ⟨sameDirectory, sameCells⟩

end

/-! ### The grants and the completions together -/

theorem State.foldDone_stands {rec : SurveyRec} {ident : Nat} (entry : entryIdent rec.entry = some ident) {f : FoldEntry}
    (standing : s.foldStands f = true) (loc : Loc) : s.foldDone rec f loc = s.applyFold ident f.gen f.value loc := by
  rw [State.foldDone, entry]
  exact if_pos standing

/-- Where an entry lands only the used cells of its page change. -/
theorem State.landedAt_live (s : State) (p : PageIx) (cell : Nat) (content : CellContent) (limit : Nat) (q : PageIx) :
    ((s.landedAt p cell content limit).page q).live = (s.page q).live := by
  rw [State.landedAt_page]
  split
  · next same => rw [← same]
  · rfl

theorem State.landedAt_state (s : State) (p : PageIx) (cell : Nat) (content : CellContent) (limit : Nat) (q : PageIx) :
    ((s.landedAt p cell content limit).page q).state = (s.page q).state := by
  rw [State.landedAt_page]
  split
  · next same => rw [← same]
  · rfl

/-- Settles O54: the entry of each grant and where it goes, the completions of the cells, and what an entry that stands whole
does to the directory and to the pages. -/
theorem compactionEntriesComplete : Obligations.CompactionEntriesComplete := by
  refine ⟨fun v s running victim isVictim nothing => ?engine, fun s running nothing still chosen noRun action => ?sealing⟩
  case sealing =>
    intro granted
    have step : granted.grantStep = _ := State.grantStep_seal noRun action
    have standing : s.foldLapsed = false := State.foldLapsed_other (by simp [action])
    have same : Undisturbed s granted := Undisturbed.refl s
    refine ⟨fun u switched => ?_, fun host automatic victims reclaimed none selecting => ?_⟩
    · rw [switched] at step
      exact exec_engineGranted running still chosen standing step ((same.pageSwitch switched).nothingToTake nothing)
    · rw [none] at step
      rw [exec_engineGranted running still chosen standing step (Undisturbed.nothing_choose nothing)]
      refine (chooses_withEngine granted _ _ Option.none _).1 (choose_selecting ?_)
      exact congrArg (fun c : Compaction => { c with action := .none }) selecting
  case engine =>
    intro standsAt stands walkOn granted
    have standsIff (f : FoldEntry) : s.foldStands f = true ↔ stands f := s.foldStands_iff f
    refine ⟨fun still chosen => ⟨?placed, ?superseded, ?lapsed, ?unfit⟩, fun run w flight inRun => ?done⟩
    case placed =>
      intro p a noRun opened append placed
      refine ⟨fun words again action fits => ?_, fun action fits => ?_, fun f action standing fits => ?_, ?_⟩
      · exact exec_engineFits running still chosen (State.foldLapsed_other (by simp [action])) nothing noRun
          (State.engineEntry_copy victim action) opened append fits
      · exact exec_engineFits running still chosen (State.foldLapsed_other (by simp [action])) nothing noRun
          (State.engineEntry_release victim action) opened append fits
      · exact exec_engineFits running still chosen
          ((State.foldLapsed_fold action).trans (by rw [(standsIff f).2 standing]; rfl)) nothing noRun
          (State.engineEntry_fold victim action) opened append fits
      · intro k rec e value bumps action at' body words current fits
        have entry := State.engineEntry_compose victim action at' current
        rw [composeFold_tally body] at entry
        exact exec_engineFits running still chosen (State.foldLapsed_other (by simp [action])) nothing noRun entry opened
          append ((entryWords_tallyBase_length ..).le.trans fits)
    case superseded =>
      intro k rec e noRun action at' other
      have step := (State.grantStep_superseded (s := granted) noRun victim action at' other).trans
        (congrArg State.walk (State.advance_eq (s := granted) at'.1))
      refine exec_engineGranted running still chosen (State.foldLapsed_other (by simp [action])) step ?_
      refine (Undisturbed.walk (s₀ := granted) ?_).nothingToTake nothing
      exact Undisturbed.refl granted
    case lapsed =>
      intro k f action walk lapsed
      have lapsed : s.foldLapsed = true := by
        rw [State.foldLapsed_fold action, Bool.eq_false_iff.2 (mt (standsIff f).1 lapsed)]
        rfl
      rw [exec_engineLapsed running still chosen lapsed nothing]
      refine congrArg Host.Outcome.next ((State.lapseFold_eq (s := granted) walk).trans ?_)
      change State.walk { granted.faultRunIfAny s.compaction.run with compaction := _ } = _
      cases s.compaction.run <;> rfl
    case unfit =>
      intro cells noRun unfit entry
      have chosenEntry : s.foldLapsed = false ∧ ∃ words a, s.engineEntry = some (words, a) ∧ words.length = cells := by
        rcases entry with ⟨action, rfl⟩ | ⟨words, again, action, rfl⟩ | ⟨f, action, standing, rfl⟩ |
          ⟨k, rec, e, action, at', current, rfl⟩
        · exact ⟨State.foldLapsed_other (by simp [action]), _, _, State.engineEntry_release victim action, rfl⟩
        · exact ⟨State.foldLapsed_other (by simp [action]), _, _, State.engineEntry_copy victim action, rfl⟩
        · exact ⟨(State.foldLapsed_fold action).trans (by rw [(standsIff f).2 standing]; rfl), _, _,
            State.engineEntry_fold victim action, rfl⟩
        · exact ⟨State.foldLapsed_other (by simp [action]), _, _, State.engineEntry_compose victim action at' current,
            entryWords_tallyBase_length ..⟩
      obtain ⟨standing, words, a, placed, rfl⟩ := chosenEntry
      exact exec_engineUnfit running still chosen standing nothing noRun victim placed unfit
    case done =>
      intro cell loc last wrote asks good faulted stopped settles moved
      let here : State := s.landedAt run.page (run.first + run.done) (.word w) (run.first + run.done + 1)
      let missed : State := s.landedAt run.page (run.first + run.done) .indeterminate (run.first + run.done + 1)
      have failed : missed.engineFailed run = { s with
          array := faulted, compaction := { s.compaction with run := none, failures := s.compaction.failures + 1 } } := by
        rw [State.engineFailed, State.landedAt_faultRun]
        rfl
      have stop {outcome : Host.Outcome State Fault Refusal} {u : State} (is : outcome = .next u.abandonWalk)
          (victim : u.compaction.victim = some v) (store : u.store = s.store) (directory : u.directory = s.directory)
          (runs : (u.faultRunIfAny u.compaction.run).array.faulted = faulted.faulted) : stopped outcome u.array.cells := by
        obtain ⟨sameDirectory, sameCells, sameRuns⟩ := State.abandonWalk_keeps victim
        rw [is]
        refine ⟨store ▸ State.abandonWalk_givenUp victim, fun t isThat => ?_⟩
        obtain rfl := Host.Outcome.next.inj isThat
        exact ⟨sameDirectory.trans directory, sameCells, sameRuns.trans runs⟩
      refine ⟨fun short => ?inside, fun k rec ident e last walk record entry found => ?entry, fun last action => ?release,
        fun few => ?again, fun third => ?exhausts⟩
      case inside =>
        have step := State.compactionCellDone_inside (s := here) inRun short
        refine ⟨fun walks => ?_, fun stops => ?_⟩
        · exact exec_engineCellDone running flight (outcome := .ok) (step.trans (if_neg (by simp [here, walks, State.landedAt])))
            nothing
        · refine stop (exec_engineCellDone running flight (outcome := .ok) (step.trans (if_pos stops)) ?_) victim rfl rfl rfl
          refine Undisturbed.nothingToTake (s₀ := here) (Undisturbed.abandonWalk ?_) nothing
          exact Undisturbed.refl here
      case entry =>
        have settle {d : List DirEntry} {counts : List (Nat × Nat)} {table : Vector PageRec 32}
            (settled : here.engineEntryDone loc = State.goesOn { here with
              directory := d, compaction := { s.compaction with victimCounts := counts, failures := 0, run := none }
              array := { here.array with table } }) :
            settles k d { s.compaction with victimCounts := counts } table :=
          exec_engineSettles running flight nothing inRun last victim walk settled
        have moves {n : Nat} {table : Vector PageRec 32} (pages : ∀ q, table.get q = { here.page q with
            live := (here.page q).live + (if q = run.page then n else 0) - if q = v then n else 0 }) : moved v n table := by
          intro q _
          rw [pages, State.landedAt_live]
          rfl
        have atRecord : here.compaction.record = some rec := (Compaction.record_iff _ _).2 ⟨k, walk, record⟩
        have passes (engaged : engaged s.compaction.action = true) :
            here.runSettled.passedInVictim { page := v, cell := rec.first } = true :=
          State.passedInVictim_here (s := here.runSettled) victim walk record engaged
        intro original counted superseded
        refine ⟨fun words granted txn self action version => ?version, fun words granted ordinal delta gen action bump => ?bump,
          fun f value bumps action body current => ?fold⟩
        case version =>
          have done := (State.engineEntryDone_copy (s := here) victim loc action atRecord).trans
            (congrArg State.goesOn (State.copyDone_version version loc))
          refine ⟨fun names => ?_, fun elsewhere => ?_⟩
          · obtain ⟨table, moved, pages⟩ := State.versionCopied_moves (s := here.runSettled) found names
              (passes (by rw [action]; rfl)) (entryCells rec.entry) loc
            exact ⟨table, moves pages, settle (done.trans (congrArg State.goesOn moved))⟩
          · exact settle (done.trans (congrArg State.goesOn (State.versionCopied_dead (s := here.runSettled) found elsewhere _ _)))
        case bump =>
          have done := (State.engineEntryDone_copy (s := here) victim loc action atRecord).trans
            (congrArg State.goesOn (State.copyDone_bump bump loc))
          refine ⟨fun value bumps body member => ?_, fun gone => ?_⟩
          · obtain ⟨table, moved, pages⟩ := State.bumpCopied_moves (s := here.runSettled) found body member
              (passes (by rw [action]; rfl)) loc
            exact ⟨table, moves pages, settle (done.trans (congrArg State.goesOn moved))⟩
          · exact settle (done.trans (congrArg State.goesOn (State.bumpCopied_dead (s := here.runSettled) found gone _)))
        case fold =>
          intro lost passed
          have bumpsAre : bumpsOf e = bumps := by rw [bumpsOf, body]
          have standing : here.runSettled.foldStands f = true :=
            (State.foldStands_iff f).2 ⟨k, rec, e, value, bumps, ⟨walk, record, ident, entry, found⟩, body, current⟩
          obtain ⟨table, folded, pages⟩ := State.applyFold_eq (s := here.runSettled) found f.gen f.value loc
          have done := ((State.engineEntryDone_fold (s := here) victim loc action atRecord).trans
            (congrArg State.goesOn (State.foldDone_stands entry standing loc))).trans (congrArg State.goesOn folded)
          rw [bumpsAre] at done
          refine ⟨table, fun q enough => ?_, ?_⟩
          · have cells : e.cellsOn q = lost q := by
              rw [DirEntry.cellsOn, bumpsAre, currentCells, body]
            have arrives : (if loc.page = q then 2 else 0) = if q = run.page then 2 else 0 := if_congr eq_comm rfl rfl
            rw [pages, cells, show (here.runSettled.page q).live = _ from State.landedAt_live .., arrives,
              ← Nat.sub_add_comm enough]
            rfl
          · by_cases none : passed = 0
            · rw [if_pos none]
              exact settle (done.trans (congrArg (fun c => State.goesOn { here with
                directory := _, compaction := c, array := { here.array with table } }) (if_pos none)))
            · rw [if_neg none]
              exact settle (done.trans (congrArg (fun c => State.goesOn { here with
                directory := _, compaction := c, array := { here.array with table } }) (if_neg none)))
      case release =>
        intro drops gone
        obtain ⟨table, left, pages⟩ := here.runSettled.releaseDone_spec
        refine ⟨table, ?_, fun apart q => ?_⟩
        · exact exec_engineCellDone running flight (outcome := .ok)
            (((State.compactionCellDone_whole (s := here) inRun last).trans
              (State.engineEntryDone_release (s := here) victim loc action)).trans left) nothing
        · refine (pages apart q).trans ?_
          rw [show (here.runSettled.page q).live = _ from State.landedAt_live ..]
          rfl
      case again =>
        have step := State.compactionCellDone_again (s := missed) inRun few
        refine ⟨fun walks => ?_, fun stops => ?_⟩
        · have step := step.trans (if_neg (by simp [missed, walks, State.landedAt]))
          rw [failed] at step
          exact exec_engineCellDone running flight (outcome := .verifyFail) step nothing
        · have step := step.trans (if_pos stops)
          rw [failed] at step
          refine stop (exec_engineCellDone running flight (outcome := .verifyFail) step ?_) victim rfl rfl rfl
          refine Undisturbed.nothingToTake (s₀ := missed) (Undisturbed.abandonWalk ?_) nothing
          exact Undisturbed.refl missed
      case exhausts =>
        have step := State.compactionCellDone_exhausts (s := missed) inRun third
        rw [failed] at step
        let u : State := { s with
          array := faulted, compaction := { s.compaction with run := none, failures := s.compaction.failures + 1 } }
        have states (q : PageIx) : (u.page q).state = (s.page q).state :=
          State.landedAt_state s run.page (run.first + run.done) .indeterminate _ q
        have opened : u.openPage = s.openPage := State.openPage_congr states
        obtain ⟨sealed, sealsOpen, append, runs, idle, notice⟩ :=
          State.exhaustWalk_spec (s := u) victim rfl ((states v).trans isVictim) run.page
        rw [opened] at sealsOpen append
        refine ⟨u.exhaustWalk run.page, exec_engineCellDone running flight (outcome := .verifyFail) step ?_, sealed, sealsOpen,
          append, runs, idle, notice running⟩
        refine Undisturbed.nothingToTake (s₀ := u) (Undisturbed.exhaustWalk ?_ run.page) nothing
        exact Undisturbed.refl u

end Sys2Proof.Machine
end

section
/-! The apply of a commit at its marker (R11, R12, R56, R57, R104): one operation applied, the operations one after the other,
and the theorem about the marker's completion. -/

namespace Sys2Proof.Machine

variable {s : State}

/-! ### One operation -/

/-- The locations that a commit's operation on an identifier supersedes: the current entry, its bumps and the relocated copies
that stand (R56). -/
def State.supersededBy (s : State) (c : CommitRecord) (ident : Nat) : List Loc :=
  (match s.entryOf ident with
    | some e => e.loc :: (bumpsOf e).map BumpLoc.loc
    | none => []) ++ s.copiesOf c ident

/-- The entry of the directory that an applied operation leaves (R11, R12). -/
def State.appliedEntry (s : State) (c : CommitRecord) (op : StagedOp) (loc : Loc) (made : Composed) : DirEntry :=
  { ident := opIdent op, gen := made.gen, loc, body := opBody op
    stale := match s.entryOf (opIdent op) with
      | some old => old.stale + 1 + (bumpsOf old).length + (s.copiesOf c (opIdent op)).length
      | none => (s.copiesOf c (opIdent op)).length }

/-- The live cells that an operation's entry brings to a page (R57). -/
def opGains (p : PageIx) (x : StagedOp × CommitItem) : Nat :=
  if x.2.final.any (fun l => l.page = p) then opCells x.1 else 0

/-- The live cells that the entry superseded by an operation takes off a page (R57). -/
def State.opLoses (s : State) (p : PageIx) (op : StagedOp) : Nat :=
  match s.entryOf (opIdent op) with
  | none => 0
  | some e => e.cellsOn p

/-- One operation applied: its entry in the directory, the victim counts and the live cells of what it supersedes. -/
theorem applyOp_spec (c : CommitRecord) (s : State) {x : StagedOp × CommitItem} {loc : Loc} {made : Composed}
    (final : x.2.final = some loc) (composed : x.2.composed = some made) : ∃ counts table,
    State.applyOp c s x = { s with
      directory := Machine.putEntry s.directory (s.appliedEntry c x.1 loc made)
      compaction := { s.compaction with victimCounts := counts }
      array := { s.array with table } } ∧
    (∀ other, victimCount counts other = victimCount s.compaction.victimCounts other + if other = opIdent x.1 then
      ((s.supersededBy c (opIdent x.1)).filter (fun l => s.passedInVictim l)).length else 0) ∧
    (s.compaction.victim = none → counts = s.compaction.victimCounts) ∧
    ∀ p, table.get p = { s.page p with live := (s.page p).live - s.opLoses p x.1 + opGains p x } := by
  have gains (p : PageIx) : opGains p x = if loc.page = p then opCells x.1 else 0 := by simp [opGains, final]
  have copied {t : State} {counts : List (Nat × Nat)} (same : t.compaction = { s.compaction with victimCounts := counts })
      (locs : List Loc) : locs.filter (fun l => t.passedInVictim l) = locs.filter (fun l => s.passedInVictim l) :=
    List.filter_congr fun l _ => by simp [State.passedInVictim, same]
  rw [State.applyOp, final, composed]
  dsimp only
  cases found : s.entryOf (opIdent x.1) with
  | none =>
    let t := (s.putEntry (s.appliedEntry c x.1 loc made)).addLive loc.page (opCells x.1)
    obtain ⟨counts, counted, each, kept⟩ := t.countSuperseded_spec (opIdent x.1) (s.copiesOf c (opIdent x.1))
    refine ⟨counts, t.array.table, ?_, fun other => ?_, kept, fun p => ?_⟩
    · have entry : s.appliedEntry c x.1 loc made = {
          ident := opIdent x.1, gen := made.gen, loc, body := opBody x.1
          stale := (s.copiesOf c (opIdent x.1)).length } := by rw [State.appliedEntry, found]
      dsimp only
      rw [← entry]
      exact counted
    · rw [each, copied rfl, State.supersededBy, found]
      rfl
    · refine (State.addLive_page _ loc.page (opCells x.1) p).trans ?_
      rw [gains, State.opLoses, found]
      rfl
  | some e =>
    obtain ⟨table, counts, dropped, each, kept, pages⟩ := s.supersede_spec e (opIdent x.1) (e.loc :: (bumpsOf e).map BumpLoc.loc)
    let u : State := { s with
      directory := Machine.putEntry s.directory (s.appliedEntry c x.1 loc made)
      compaction := { s.compaction with victimCounts := counts }
      array := { s.array with table } }
    let t := u.addLive loc.page (opCells x.1)
    obtain ⟨counts', counted, each', kept'⟩ := t.countSuperseded_spec (opIdent x.1) (s.copiesOf c (opIdent x.1))
    refine ⟨counts', t.array.table, ?_, fun other => ?_, fun none => (kept' none).trans (kept none), fun p => ?_⟩
    · have put : (((s.dropLive e).countSuperseded (opIdent x.1) (e.loc :: (bumpsOf e).map BumpLoc.loc)).putEntry
          (s.appliedEntry c x.1 loc made)) = u := by rw [dropped]; rfl
      have entry : s.appliedEntry c x.1 loc made = {
          ident := opIdent x.1, gen := made.gen, loc, body := opBody x.1
          stale := e.stale + 1 + (bumpsOf e).length + (s.copiesOf c (opIdent x.1)).length } := by
        rw [State.appliedEntry, found]
      dsimp only
      rw [← entry, put]
      exact counted
    · rw [each', copied (counts := counts) rfl, show victimCount t.compaction.victimCounts other = _ from each other,
        State.supersededBy, found, List.filter_append, List.length_append]
      dsimp only
      split <;> omega
    · refine (State.addLive_page u loc.page (opCells x.1) p).trans ?_
      rw [show u.page p = _ from pages p, gains, State.opLoses, found]

/-! ### The operations one after the other -/

/-- What the operations of a commit, applied one after the other, have made of a state (R56, R57). -/
structure Applied (c : CommitRecord) (s t : State) (xs : List (StagedOp × CommitItem)) : Prop where
  rest : t = { s with
    directory := t.directory, compaction := { s.compaction with victimCounts := t.compaction.victimCounts }
    array := { s.array with table := t.array.table } }
  sorted : directorySorted t.directory
  entries : ∀ x ∈ xs, ∀ loc made, x.2.final = some loc → x.2.composed = some made →
    t.entryOf (opIdent x.1) = some (s.appliedEntry c x.1 loc made)
  others : ∀ ident, (∀ x ∈ xs, opIdent x.1 ≠ ident) → t.entryOf ident = s.entryOf ident
  states : ∀ p, (t.page p).state = (s.page p).state
  pages : ∀ p, (xs.map (fun x => s.opLoses p x.1)).sum ≤ (s.page p).live → t.page p = { s.page p with
    live := (s.page p).live + (xs.map (opGains p)).sum - (xs.map (fun x => s.opLoses p x.1)).sum }
  counts : ∀ x ∈ xs, victimCount t.compaction.victimCounts (opIdent x.1)
    = victimCount s.compaction.victimCounts (opIdent x.1)
      + ((s.supersededBy c (opIdent x.1)).filter (fun l => s.passedInVictim l)).length
  otherCounts : ∀ ident, (∀ x ∈ xs, opIdent x.1 ≠ ident) →
    victimCount t.compaction.victimCounts ident = victimCount s.compaction.victimCounts ident
  noVictim : s.compaction.victim = none → t.compaction = s.compaction

theorem State.copiesOf_congr {t : State} (states : ∀ p, (t.page p).state = (s.page p).state) (c : CommitRecord) (ident : Nat) :
    t.copiesOf c ident = s.copiesOf c ident := by
  simp only [State.copiesOf, State.standing, states]

theorem applyOps_spec (c : CommitRecord) : ∀ (xs : List (StagedOp × CommitItem)) (s : State), directorySorted s.directory →
    (xs.map (fun x => opIdent x.1)).Nodup → (∀ x ∈ xs, x.2.final ≠ none ∧ x.2.composed ≠ none) →
    Applied c s (xs.foldl (State.applyOp c) s) xs
  | [], s, sorted, _, _ => by
    refine ⟨rfl, sorted, by simp, fun _ _ => rfl, fun _ => rfl, fun p _ => by simp, by simp, fun _ _ => rfl, fun _ => rfl⟩
  | x :: xs, s, sorted, distinct, whole => by
    obtain ⟨new, distinct⟩ := List.nodup_cons.1 distinct
    obtain ⟨⟨final, composed⟩, whole⟩ := List.forall_mem_cons.1 whole
    obtain ⟨loc, final⟩ := Option.ne_none_iff_exists'.1 final
    obtain ⟨made, composed⟩ := Option.ne_none_iff_exists'.1 composed
    obtain ⟨counts, table, step, each, kept, pages⟩ := applyOp_spec c s final composed
    let u : State := { s with
      directory := Machine.putEntry s.directory (s.appliedEntry c x.1 loc made)
      compaction := { s.compaction with victimCounts := counts }
      array := { s.array with table } }
    have entryOf (ident : Nat) : u.entryOf ident
        = if opIdent x.1 = ident then some (s.appliedEntry c x.1 loc made) else s.entryOf ident :=
      findEntry_putEntry sorted (s.appliedEntry c x.1 loc made) ident
    have states (p : PageIx) : (u.page p).state = (s.page p).state := (congrArg PageRec.state (pages p)).trans rfl
    have apart {y : StagedOp × CommitItem} (member : y ∈ xs) : opIdent x.1 ≠ opIdent y.1 := fun same =>
      new (List.mem_map.2 ⟨y, member, same.symm⟩)
    have sameEntry {y : StagedOp × CommitItem} (member : y ∈ xs) : u.entryOf (opIdent y.1) = s.entryOf (opIdent y.1) :=
      (entryOf _).trans (if_neg (apart member))
    have after := applyOps_spec c xs u (putEntry_sorted sorted) distinct whole
    rw [List.foldl_cons, step]
    change Applied c s (xs.foldl (State.applyOp c) u) (x :: xs)
    generalize xs.foldl (State.applyOp c) u = t at after ⊢
    refine ⟨after.rest, after.sorted, fun y member loc' made' final' composed' => ?_, fun ident none => ?_,
      fun p => (after.states p).trans (states p), fun p enough => ?_, fun y member => ?_, fun ident none => ?_,
      fun none => (after.noVictim none).trans ?_⟩
    · rcases List.mem_cons.1 member with rfl | member
      · obtain rfl := Option.some.inj (final.symm.trans final')
        obtain rfl := Option.some.inj (composed.symm.trans composed')
        exact (after.others _ fun y member => (apart member).symm).trans ((entryOf _).trans (if_pos rfl))
      · rw [after.entries y member loc' made' final' composed', State.appliedEntry, State.appliedEntry, sameEntry member,
          State.copiesOf_congr states]
    · obtain ⟨other, others⟩ := List.forall_mem_cons.1 none
      exact (after.others ident others).trans ((entryOf ident).trans (if_neg other))
    · have loses : xs.map (fun y => u.opLoses p y.1) = xs.map (fun y => s.opLoses p y.1) :=
        List.map_congr_left fun y member => by rw [State.opLoses, State.opLoses, sameEntry member]
      have live : (u.page p).live = (s.page p).live - s.opLoses p x.1 + opGains p x := congrArg PageRec.live (pages p)
      have later := after.pages p
      rw [loses, live] at later
      simp only [List.map_cons, List.sum_cons] at enough ⊢
      rw [later (by omega), show u.page p = _ from pages p]
      dsimp only
      congr 1
      omega
    · have same (locs : List Loc) : locs.filter (fun l => u.passedInVictim l) = locs.filter (fun l => s.passedInVictim l) := rfl
      rcases List.mem_cons.1 member with rfl | member
      · exact (after.otherCounts _ fun y member => (apart member).symm).trans ((each _).trans (by rw [if_pos rfl]))
      · have was : victimCount u.compaction.victimCounts (opIdent y.1)
            = victimCount s.compaction.victimCounts (opIdent y.1) := (each _).trans (by rw [if_neg (apart member).symm]; rfl)
        rw [after.counts y member, was, same, State.supersededBy, State.supersededBy, sameEntry member,
          State.copiesOf_congr states]
    · obtain ⟨other, others⟩ := List.forall_mem_cons.1 none
      exact (after.otherCounts ident others).trans ((each ident).trans (by rw [if_neg (Ne.symm other)]; rfl))
    · exact congrArg (fun counts => { s.compaction with victimCounts := counts }) (kept none)

end Sys2Proof.Machine
end

section
/-! The marker of a commit (R56, R57, R104): the theorem about its completion. -/

namespace Sys2Proof.Machine

variable {s : State}

theorem State.attemptDone_marker {c : CommitRecord} (relocate : c.relocate = []) (position : c.position = c.items.length)
    (r : Run) : s.attemptDone c r = s.applyCommit { c with run := none } := by
  have target : ({ c with run := none } : CommitRecord).target = .marker := CommitRecord.target_marker relocate position
  simp [State.attemptDone, target]

theorem State.copiesOf_eq (s : State) (c : CommitRecord) (ident : Nat) : s.copiesOf c ident
    = (c.copies.filter (fun x => x.1 = ident ∧ (s.page x.2.page).state ≠ .erased ∧ (s.page x.2.page).state ≠ .retired)).map
      (fun x => x.2) := by
  rw [State.copiesOf, List.filter_map, List.filter_filter]
  refine congrArg (List.map _) (List.filter_congr fun x _ => ?_)
  simp [State.standing, Bool.and_comm]

theorem State.mem_carryOf {c : CommitRecord} {txn : Nat} {pair : CarryPair} : pair ∈ s.carryOf c txn ↔
    pair.txn = txn ∧ c.commitPage ≠ some pair.page ∧
      ((s.page pair.page).state ≠ .erased ∧ (s.page pair.page).state ≠ .retired) ∧
        ∃ x ∈ c.copies, x.2.page = pair.page := by
  obtain ⟨page, number⟩ := pair
  simp only [State.carryOf, List.mem_map, List.mem_eraseDups, List.mem_filter, Bool.and_eq_true, decide_eq_true_eq,
    State.standing, CarryPair.mk.injEq]
  constructor
  · rintro ⟨p, ⟨copy, standing, other⟩, rfl, rfl⟩
    exact ⟨rfl, other, standing, copy⟩
  · rintro ⟨rfl, other, standing, copy⟩
    exact ⟨page, ⟨copy, standing, other⟩, rfl, rfl⟩

/-- The transaction that a commit has applied is over, and its COMMIT is answered (R56). -/
def State.committed (t : State) (pairs : List CarryPair) (r : Request) (reply : List Byte) : State :=
  State.answered (State.endTxn (State.dropCommit { t with carry := t.carry ++ pairs })) r reply

theorem State.applyCommit_answered {c : CommitRecord} {number : Nat} (txn : s.txn.number = some number) {r : Request}
    {t : State} (applied : (s.txn.staging.zip c.items).foldl (State.applyOp c) s = t)
    (executing : t.executor.executing = some r) (room : t.txRoom = true) : s.applyCommit c
      = t.committed (s.carryOf c number) r ([0x00] ++ beBytes 4 number ++ beBytes 1 s.txn.staging.length) := by
  rw [State.applyCommit, applied, txn]
  exact State.reply_room (s := State.endTxn (State.dropCommit { t with carry := t.carry ++ s.carryOf c number })) executing room _

/-- Settles O46: the marker's cell lands, the staged operations are applied one after the other, and the COMMIT is answered. -/
theorem commitIsAppliedAtItsMarker : Obligations.CommitIsAppliedAtItsMarker := by
  intro c run r number w s flight finishes state txn commit inRun last relocate position length sorted distinct whole reply
    stands copies superseded gained lost
  let here : State := s.landedAt run.page (run.first + run.done) (.word w) (run.first + run.done + 1)
  let d : CommitRecord := { c with run := none }
  let xs := s.txn.staging.zip c.items
  have operations : xs.map (fun x => x.1) = s.txn.staging := List.map_fst_zip length.ge
  have idents : xs.map (fun x => opIdent x.1) = s.txn.staging.map opIdent := by rw [← operations, List.map_map]; rfl
  have entries : ∀ x ∈ xs, x.2.final ≠ none ∧ x.2.composed ≠ none := fun x member => whole x.2 (List.of_mem_zip member).2
  have states (p : PageIx) : (here.page p).state = (s.page p).state := s.landedAt_state ..
  have copied (ident : Nat) : here.copiesOf d ident = (c.copies.filter (fun x => x.1 = ident ∧ stands x.2.page)).map
      (fun x => x.2) := (State.copiesOf_congr states d ident).trans (s.copiesOf_eq d ident)
  have loses (p : PageIx) : (xs.map (fun x => here.opLoses p x.1)).sum = lost p := by
    have each (op : StagedOp) : here.opLoses p op = match s.entryOf (opIdent op) with
        | none => 0
        | some e => (if e.loc.page = p then currentCells e else 0)
          + ((bumpsOf e).filter (fun b => b.loc.page = p)).length := rfl
    rw [show (fun x : StagedOp × CommitItem => here.opLoses p x.1) = here.opLoses p ∘ fun x => x.1 from rfl,
      ← List.map_map, operations]
    rfl
  have applied := applyOps_spec d xs here sorted (idents ▸ distinct) entries
  obtain ⟨t, fold⟩ : ∃ t, xs.foldl (State.applyOp d) here = t := ⟨_, rfl⟩
  rw [fold] at applied
  have executing : t.executor.executing = some r := (congrArg (fun t => t.executor.executing) applied.rest).trans finishes.2.1
  have link : t.link = s.link := (congrArg State.link applied.rest).trans rfl
  have room : t.txRoom = true := by rw [State.txRoom, link]; exact finishes.txRoom
  have done := State.applyCommit_answered (s := here) (c := d) txn fold executing room
  have member {i : Nat} {op : StagedOp} {item : CommitItem} (op' : s.txn.staging[i]? = some op)
      (item' : c.items[i]? = some item) : (op, item) ∈ xs :=
    List.mem_of_getElem? (List.getElem?_zip_eq_some.2 ⟨op', item'⟩)
  have unstaged {ident : Nat} (none : s.unstaged ident) : ∀ x ∈ xs, opIdent x.1 ≠ ident := fun x at' =>
    none x.1 (List.of_mem_zip at').1
  refine ⟨_, exec_programCompleted finishes.1 flight ((State.cellDone_commit commit .ok).trans
    (((State.commitCellDone_whole (s := here) inRun state last).trans
      (State.attemptDone_marker relocate position _)).trans done)) (State.nothingToTake_queue ?_),
    ⟨rfl, rfl, rfl, rfl⟩, rfl, rfl, ?_, ?_, ?_, ?_, ?_, ?_, ?_, ?_, ?_⟩
  · exact (congrArg Link.queue link).trans finishes.2.2.1
  · exact congrArg (fun l : Link => l.transmit ++ [reply]) link
  · intro i op item loc made op' item' final composed
    refine ⟨here.appliedEntry d op loc made, applied.entries _ (member op' item') loc made final composed, rfl, rfl, ?_, ?_⟩
    · rw [State.appliedEntry, copied, List.length_map]
      rfl
    · cases op <;> rfl
  · exact fun ident none => applied.others ident (unstaged none)
  · intro p enough
    have page := applied.pages p
    rw [loses, State.landedAt_live, State.landedAt_page] at page
    refine (page enough).trans ?_
    by_cases same : run.page = p
    · subst same
      rw [if_pos rfl, if_pos rfl]
      rfl
    · rw [if_neg same, if_neg (Ne.symm same)]
      rfl
  · intro pair
    have carry : t.carry = s.carry := (congrArg State.carry applied.rest).trans rfl
    refine (List.mem_append (s := t.carry)).trans (or_congr (by rw [carry]) (State.mem_carryOf.trans ?_))
    rw [states]
  · exact (congrArg State.compaction applied.rest).trans rfl
  · intro op staged
    obtain ⟨i, inside, op'⟩ := List.getElem_of_mem staged
    have here' := applied.counts _ (member (List.getElem?_eq_some_iff.2 ⟨inside, op'⟩)
      (List.getElem?_eq_getElem (length ▸ inside)))
    refine here'.trans ?_
    rw [State.supersededBy, copied]
    rfl
  · exact fun ident none => applied.otherCounts ident (unstaged none)
  · exact fun none => applied.noVictim none

end Sys2Proof.Machine
end

section
/-! READ of a mount (R123 to R125, R187): the judgement of an entry field by field, the judgement of a page, and the reads. -/

namespace Sys2Proof.Machine

variable {s : State}

/-! ### The judgement of an entry -/

theorem judgeEntry_eq_some {words : List CellWord} {e : Entry} : judgeEntry words = some e ↔
    entryFields words = some e ∧ entryInRange e = true ∧ entryCells e ≤ words.length ∧
      checkMatches (words.take (entryCells e)) = true := by
  unfold judgeEntry
  cases fields : entryFields words with
  | none => simp
  | some f =>
    simp only [Option.ite_none_right_eq_some, Bool.and_eq_true, decide_eq_true_eq, Option.some.injEq]
    constructor
    · rintro ⟨⟨⟨range, cells⟩, matching⟩, rfl⟩
      exact ⟨rfl, range, cells, matching⟩
    · rintro ⟨rfl, range, cells, matching⟩
      exact ⟨⟨⟨range, cells⟩, matching⟩, rfl⟩

theorem cellByte_of_field {w : CellWord} {n : Nat} (code : cellField w 0 1 = n) : cellByte w 0 = BitVec.ofNat 8 n := by
  rw [← code, cellField_byte0, BitVec.ofNat_toNat, BitVec.setWidth_eq]

/-- The fields of an entry are those of its cells, kind by kind (R185). -/
def Entry.readFrom (words : List CellWord) : Entry → Prop
  | .blob flags ident txn gen length =>
    let header := words.headD blankCell
    cellByte header 0 = 0x01 ∧ flags = cellByte header 1 ∧ ident = cellField header 2 2 ∧ txn = cellField header 4 4 ∧
      gen = cellField header 8 4 ∧ length = cellField header 12 1
  | .tallyBase flags ident txn gen value =>
    let header := words.headD blankCell
    cellByte header 0 = 0x02 ∧ flags = cellByte header 1 ∧ ident = cellField header 2 2 ∧ txn = cellField header 4 4 ∧
      gen = cellField header 8 4 ∧ value = cellField (words.getD 1 blankCell) 0 4
  | .tombstone flags ident txn gen =>
    let header := words.headD blankCell
    cellByte header 0 = 0x03 ∧ flags = cellByte header 1 ∧ ident = cellField header 2 2 ∧ txn = cellField header 4 4 ∧
      gen = cellField header 8 4
  | .bump ordinal ident delta gen =>
    let header := words.headD blankCell
    cellByte header 0 = 0x04 ∧ ordinal = cellField header 1 1 ∧ ident = cellField header 2 2 ∧ delta = cellField header 4 2 ∧
      gen = cellField header 8 4
  | .marker txn count =>
    let header := words.headD blankCell
    cellByte header 0 = 0x05 ∧ txn = cellField header 4 4 ∧ count = cellField header 12 1
  | .release victim sequence =>
    let header := words.headD blankCell
    cellByte header 0 = 0x06 ∧ victim = cellField header 1 1 ∧ sequence = cellField header 4 4
  | .formatMark => cellByte (words.headD blankCell) 0 = 0x07

theorem entryFields_readFrom {words : List CellWord} {e : Entry} (fields : entryFields words = some e) :
    entryCells e = cellField (words.headD blankCell) 13 1 ∧ e.readFrom words := by
  unfold entryFields at fields
  extract_lets at fields
  split at fields
  case h_8 => simp at fields
  all_goals
    rename_i code
    obtain ⟨count, fields⟩ := Option.ite_none_right_eq_some.1 fields
    obtain rfl := Option.some.inj fields
    refine ⟨count.symm, ?_⟩
    have header := cellByte_of_field code
  case h_1 => exact ⟨header, rfl, rfl, rfl, rfl, rfl⟩
  case h_2 => exact ⟨header, rfl, rfl, rfl, rfl, rfl⟩
  case h_3 => exact ⟨header, rfl, rfl, rfl, rfl⟩
  case h_4 => exact ⟨header, rfl, rfl, rfl, rfl⟩
  case h_5 => exact ⟨header, rfl, rfl⟩
  case h_6 => exact ⟨header, rfl, rfl⟩
  case h_7 => exact header

theorem entryCells_pos (e : Entry) : 1 ≤ entryCells e := by
  cases e <;> simp [entryCells, blobCells]

/-! ### The judgement of a run of cells -/

/-- The cells of an entry just judged are passed over. -/
theorem judgeCells_skip (barred : Nat → Bool) : ∀ (words : List CellWord) (at' k : Nat),
    judgeCells barred words at' k = judgeCells barred (words.drop k) (at' + k) 0
  | [], at', k => by simp [judgeCells]
  | w :: rest, at', 0 => rfl
  | w :: rest, at', k + 1 => by
    rw [judgeCells, judgeCells_skip barred rest (at' + 1) k, List.drop_succ_cons, Nat.add_right_comm, Nat.add_assoc]

theorem judgeCells_cons (barred : Nat → Bool) (w : CellWord) (rest : List CellWord) (at' : Nat) :
    judgeCells barred (w :: rest) at' 0 = match judgeEntry (w :: rest) with
      | none => judgeCells barred rest (at' + 1) 0
      | some e =>
        if (List.range (entryCells e)).any (fun k => barred (at' + k)) then judgeCells barred rest (at' + 1) 0
        else (at', e) :: judgeCells barred ((w :: rest).drop (entryCells e)) (at' + entryCells e) 0 := by
  rw [judgeCells]
  cases judgeEntry (w :: rest) with
  | none => rfl
  | some e =>
    obtain ⟨k, cells⟩ := Nat.exists_eq_add_of_le' (entryCells_pos e)
    dsimp only
    rw [judgeCells_skip barred rest (at' + 1) (entryCells e - 1), cells, Nat.add_sub_cancel, List.drop_succ_cons,
      Nat.add_right_comm at' 1 k, Nat.add_assoc at' k 1]

/-! ### The judgement of a page -/

theorem le_foldl_max {α : Type} (f : α → Nat) : ∀ (xs : List α) (m : Nat),
    m ≤ xs.foldl (fun m x => max m (f x)) m ∧ (∀ x ∈ xs, f x ≤ xs.foldl (fun m x => max m (f x)) m) ∧
      (xs.foldl (fun m x => max m (f x)) m = m ∨ ∃ x ∈ xs, xs.foldl (fun m x => max m (f x)) m = f x)
  | [], m => ⟨le_rfl, by simp, .inl rfl⟩
  | x :: xs, m => by
    obtain ⟨low, each, reached⟩ := le_foldl_max f xs (max m (f x))
    rw [List.foldl_cons]
    refine ⟨(le_max_left _ _).trans low, fun y member => ?_, ?_⟩
    · rcases List.mem_cons.1 member with rfl | member
      · exact (le_max_right _ _).trans low
      · exact each y member
    · rcases reached with reached | ⟨y, member, reached⟩
      · rcases max_choice m (f x) with is | is
        · exact .inl (reached.trans is)
        · exact .inr ⟨x, List.mem_cons_self, reached.trans is⟩
      · exact .inr ⟨y, List.mem_cons_of_mem _ member, reached⟩

/-- The used extent ends after the highest cell that is not blank (R125). -/
theorem usedExtent_spec {words : List CellWord} (whole : words.length = 128) :
    2 ≤ usedExtent words ∧ usedExtent words ≤ 128 ∧
      (∀ k, usedExtent words ≤ k → k < 128 → words.getD k blankCell = blankCell) ∧
      (2 < usedExtent words → words.getD (usedExtent words - 1) blankCell ≠ blankCell) := by
  obtain ⟨low, each, reached⟩ := le_foldl_max (fun x : CellWord × Nat => x.2 + 1)
    (words.zipIdx.filter (fun x => decide (2 ≤ x.2 ∧ x.1 ≠ blankCell))) 2
  change 2 ≤ usedExtent words at low
  change ∀ x ∈ words.zipIdx.filter _, x.2 + 1 ≤ usedExtent words at each
  change usedExtent words = 2 ∨ ∃ x ∈ words.zipIdx.filter _, usedExtent words = x.2 + 1 at reached
  refine ⟨low, ?_, fun k above inside => ?_, fun more => ?_⟩
  · rcases reached with reached | ⟨x, member, reached⟩
    · omega
    · have inside := (List.mem_zipIdx (List.mem_filter.1 member).1).2.1
      omega
  · by_contra content
    have here : words[k]? = some (words.getD k blankCell) := by
      rw [List.getD_eq_getElem?_getD, List.getElem?_eq_getElem (whole ▸ inside)]
      rfl
    have := each (words.getD k blankCell, k)
      (List.mem_filter.2 ⟨List.mem_zipIdx_iff_getElem?.2 here, decide_eq_true ⟨low.trans above, content⟩⟩)
    dsimp only at this
    omega
  · rcases reached with reached | ⟨x, member, reached⟩
    · omega
    · obtain ⟨at', holds⟩ := List.mem_filter.1 member
      have here := List.mem_zipIdx_iff_getElem?.1 at'
      rw [reached, Nat.add_sub_cancel, List.getD_eq_getElem?_getD, here]
      exact (of_decide_eq_true holds).2

theorem all_blank_iff {words : List CellWord} (whole : words.length = 128) :
    (words.drop 2).all (fun w => w = blankCell) = true ↔ ∀ k, 2 ≤ k → k < 128 → words.getD k blankCell = blankCell := by
  rw [List.all_eq_true]
  constructor
  · intro blank k low inside
    have inside : k < words.length := whole ▸ inside
    rw [List.getD_eq_getElem _ _ inside]
    refine of_decide_eq_true (blank _ (List.mem_iff_getElem.2 ⟨k - 2, by rw [List.length_drop]; omega, ?_⟩))
    rw [List.getElem_drop]
    congr 1
    omega
  · intro blank w member
    obtain ⟨k, inside, rfl⟩ := List.mem_iff_getElem.1 member
    rw [List.length_drop] at inside
    have := blank (2 + k) (by omega) (by omega)
    rw [List.getD_eq_getElem _ _ (by omega)] at this
    rw [List.getElem_drop]
    exact decide_eq_true this

section
variable {words : List CellWord}

theorem classify_unworn (unworn : wearCount (words.getD 0 blankCell) = none) : classify words = .pendingErase := by
  rw [classify, unworn]

variable (worn : wearCount (words.getD 0 blankCell) ≠ none)
include worn

theorem classify_worn : classify words = if words.getD 1 blankCell = blankCell then
      (if (words.drop 2).all (fun w => w = blankCell) then .erased else .pendingErase)
    else if (openSequence (words.getD 1 blankCell)).isSome then .holdsEntries else .pendingErase := by
  obtain ⟨n, worn⟩ := Option.ne_none_iff_exists'.1 worn
  rw [classify, worn]

end

/-! ### The reads of a mount -/

/-- The record of a mount with one more read taken in: the eighth of a page judges the page (R124, R125). -/
def MountRecord.withRead (m : MountRecord) (words : List CellWord) : MountRecord :=
  if m.readIndex % 8 = 7 then
    { m with
      readIndex := m.readIndex + 1, pageWords := []
      scans := m.scans ++ [scanPage m.closing (Fin.ofNat 32 (m.readIndex / 8)) (m.pageWords ++ words)] }
  else { m with readIndex := m.readIndex + 1, pageWords := m.pageWords ++ words }

theorem MountRecord.withRead_inside {m : MountRecord} (inside : m.readIndex % 8 ≠ 7) (words : List CellWord) :
    m.withRead words = { m with readIndex := m.readIndex + 1, pageWords := m.pageWords ++ words } := if_neg inside

theorem MountRecord.withRead_page {m : MountRecord} (last : m.readIndex % 8 = 7) (words : List CellWord) :
    m.withRead words = { m with
      readIndex := m.readIndex + 1, pageWords := []
      scans := m.scans ++ [scanPage m.closing (Fin.ofNat 32 (m.readIndex / 8)) (m.pageWords ++ words)] } := if_pos last

theorem MountRecord.withRead_readIndex (m : MountRecord) (words : List CellWord) :
    (m.withRead words).readIndex = m.readIndex + 1 := by
  unfold MountRecord.withRead
  split <;> rfl

section
variable {m : MountRecord} (mounting : s.mount = some m) (words : List CellWord)
include mounting

theorem State.mountRead_eq : s.mountRead words = if (m.withRead words).readIndex < 256 then
      (s.setMount (some (m.withRead words))).request .mount (some .read)
    else s.resolveMount (m.withRead words) := by
  rw [State.mountRead, mounting]
  rfl

theorem State.mountRead_goesOn (more : m.readIndex < 255) :
    s.mountRead words = (s.setMount (some (m.withRead words))).request .mount (some .read) := by
  rw [State.mountRead_eq mounting, if_pos (by rw [MountRecord.withRead_readIndex]; omega)]

theorem State.mountRead_ends (last : m.readIndex = 255) : s.mountRead words = s.resolveMount (m.withRead words) := by
  rw [State.mountRead_eq mounting, if_neg (by rw [MountRecord.withRead_readIndex]; omega)]

end

/-! ### The records of the pages after RESOLVE -/

/-- One record after the other is set. -/
theorem setPages_spec (rec : PageScan → PageRec) : ∀ (xs : List PageScan) (s : State), ∃ table,
    xs.foldl (fun s x => s.setPage x.page (rec x)) s = { s with array := { s.array with table } } ∧
      ((xs.map PageScan.page).Nodup → ∀ x ∈ xs, table.get x.page = rec x) ∧
      ∀ q, q ∉ xs.map PageScan.page → table.get q = s.page q
  | [], s => ⟨s.array.table, rfl, by simp, fun _ _ => rfl⟩
  | x :: xs, s => by
    obtain ⟨table, left, set, others⟩ := setPages_spec rec xs (s.setPage x.page (rec x))
    refine ⟨table, left, fun distinct y member => ?_, fun q absent => ?_⟩
    · obtain ⟨new, distinct⟩ := List.nodup_cons.1 distinct
      rcases List.mem_cons.1 member with rfl | member
      · rw [others _ new, State.page_setPage, if_pos rfl]
      · exact set distinct y member
    · obtain ⟨other, absent⟩ := not_or.1 (mt List.mem_cons.2 absent)
      rw [others q absent, State.page_setPage, if_neg (Ne.symm other)]

theorem afterDiscards_page (scans : List PageScan) : (afterDiscards scans).map PageScan.page = scans.map PageScan.page := by
  rw [afterDiscards, List.map_map]
  refine List.map_congr_left fun x _ => ?_
  dsimp only [Function.comp]
  split <;> rfl

/-! ### The queue of requests when a mount settles -/

theorem State.beginWait_queue (s : State) (p : Producer) : (s.beginWait p).link.queue = s.link.queue := by
  unfold State.beginWait
  split <;> rfl

theorem State.reply_queue (s : State) (payload : List Byte) : (s.reply payload).link.queue = s.link.queue := by
  unfold State.reply
  split
  · rfl
  · dsimp only
    split
    · split
      · rfl
      · exact State.beginWait_queue _ _
    · split
      · rfl
      · exact State.beginWait_queue _ _

theorem Undisturbed.raiseStart {s₀ : State} (h : Undisturbed s₀ s) (summary : Summary) :
    Undisturbed s₀ (s.raiseStart summary) := by
  unfold State.raiseStart
  dsimp only
  split
  · refine Undisturbed.raise ?_ _
    refine Undisturbed.raise ?_ _
    exact h
  · refine Undisturbed.raise ?_ _
    exact h

theorem State.settleMount_queue (s : State) (m : MountRecord) (r : MountResult) :
    (s.settleMount m r).link.queue = s.link.queue := by
  have presented : ((s.presentMount r).mountDemand).link = s.link := by
    have settled (t : State) : t.settlePages.link = t.link := by
      unfold State.settlePages
      split
      · split <;> rfl
      · rfl
    have demand (t : State) : t.mountDemand.link = t.link := by
      unfold State.mountDemand
      split <;> rfl
    rw [demand, State.presentMount]
    exact settled _
  have begins (t : State) : t.beginRun.link.queue = t.link.queue := (Undisturbed.refl t).beginRun.1
  rw [State.settleMount, begins]
  cases m.closing with
  | none =>
    have same : Undisturbed ((s.presentMount r).mountDemand) (((s.presentMount r).mountDemand).raiseStart
        (((s.presentMount r).mountDemand).summary m r)) := Undisturbed.raiseStart (Undisturbed.refl _) _
    exact same.queue.trans (congrArg Link.queue presented)
  | some erased =>
    dsimp only
    rw [State.closeFormat, State.reply_queue]
    exact congrArg Link.queue presented

end Sys2Proof.Machine
end

section
/-! READ of a mount (R123 to R125): the theorem about its reads and what they judge. -/

namespace Sys2Proof.Machine

variable {s : State}

/-- The last read of a mount: every page has its record, and the first erase is requested or the mount settles (R132, R133). -/
theorem State.resolveMount_spec (s : State) (m : MountRecord) :
    let r := resolve m.closing m.scans
    let supplied := mountEraseCount m.scans
    let resolved : MountRecord :=
      { m with result := some r, toErase := eraseOrder m.scans, eraseCount := supplied }
    ∃ table : Vector PageRec 32,
      ((m.scans.map PageScan.page).Nodup → ∀ x ∈ afterDiscards m.scans,
        table.get x.page = resolvedRec r.directory supplied x) ∧
      (∀ q, q ∉ m.scans.map PageScan.page → table.get q = s.page q) ∧
      let read : State := { s with array := { s.array with table } }
      (eraseOrder m.scans ≠ [] → s.resolveMount m
        = { read with mount := some resolved, array := { read.array with mountRequest := some .erase } }) ∧
      (eraseOrder m.scans = [] → s.resolveMount m = read.settleMount resolved r) := by
  intro r supplied resolved
  obtain ⟨table, left, set, others⟩ := setPages_spec (resolvedRec r.directory supplied) (afterDiscards m.scans) s
  rw [afterDiscards_page] at set others
  refine ⟨table, set, others, ?_⟩
  intro read
  have next : s.resolveMount m = read.mountNext resolved := congrArg (fun t => State.mountNext t resolved) left
  refine ⟨fun erases => ?_, fun none => ?_⟩
  · obtain ⟨p, rest, order⟩ := List.exists_cons_of_ne_nil erases
    have order : resolved.toErase = p :: rest := order
    rw [next, State.mountNext, order]
    rfl
  · have order : resolved.toErase = [] := none
    rw [next, State.mountNext, order]

/-- Settles O49: the reads and the end of READ, the judgement of a page, that of a run of cells, and that of an entry. -/
theorem mountReadsAndJudges : Obligations.MountReadsAndJudges := by
  refine ⟨?reads, ?scan, judgeCells_cons, ?entry⟩
  case reads =>
    intro m noise p first count s running flight nothing mounting got words page asks
    let here : State := s.readLanded p first count noise
    have done {t : State} (read : here.mountRead got.1 = t) (rest : t.nothingToTake) : exec (.readComplete noise) s = .next t :=
      exec_readCompleted running flight read rest
    refine ⟨fun more inside => ?_, fun more last => ?_, fun last free => ?_⟩
    · refine done ((State.mountRead_goesOn (s := here) mounting got.1 more).trans ?_) nothing
      rw [MountRecord.withRead_inside inside]
      rfl
    · refine done ((State.mountRead_goesOn (s := here) mounting got.1 more).trans ?_) nothing
      rw [MountRecord.withRead_page last]
      rfl
    · intro scans order supplied r resolved
      have read := (State.mountRead_ends (s := here) mounting got.1 last).trans (congrArg here.resolveMount
        (MountRecord.withRead_page (by rw [last]) got.1))
      obtain ⟨table, set, others, erases, settles⟩ := here.resolveMount_spec { m with
        readIndex := m.readIndex + 1, pageWords := [], scans }
      have index : m.readIndex + 1 = 256 := by rw [last]
      simp only [index] at erases settles read
      refine ⟨table, set, others, fun some => done (read.trans (erases some)) nothing,
        fun none => done (read.trans (settles none)) ?_⟩
      exact State.nothingToTake_queue ((State.settleMount_queue _ _ _).trans free)
  case scan =>
    intro closing page words whole scan cell
    obtain ⟨low, high, blank, content⟩ := usedExtent_spec whole
    refine ⟨rfl, rfl, rfl, rfl, ⟨low, high, blank, content⟩, ?_, fun own => ?_⟩
    · rintro ⟨erased, rfl, other⟩
      exact if_pos (by simp [other])
    · have cls : scan.cls = classify words := if_neg (by
        cases closing with
        | none => simp
        | some erased => simp [own erased rfl])
      rw [cls]
      refine ⟨classify_unworn, fun worn blank1 => ⟨fun all => ?_, fun ⟨k, low, inside, content⟩ => ?_⟩, fun worn full none => ?_,
        fun worn valid => ?_⟩
      · rw [classify_worn worn, if_pos blank1, if_pos ((all_blank_iff whole).2 all)]
      · rw [classify_worn worn, if_pos blank1, if_neg (mt (all_blank_iff whole).1 fun all => content (all k low inside))]
      · rw [classify_worn worn, if_neg full, none]
        rfl
      · have full : cell 1 ≠ blankCell := fun blank1 => valid (by rw [blank1]; exact headerValue_blankCell (by decide))
        rw [classify_worn worn, if_neg full, if_pos (Option.isSome_iff_ne_none.2 valid)]
  case entry =>
    intro words e judged header ranged
    obtain ⟨fields, range, cells, matching⟩ := judgeEntry_eq_some.1 judged
    obtain ⟨count, read⟩ := entryFields_readFrom fields
    refine ⟨cells, count, matching, ?_⟩
    cases e with
    | blob flags ident txn gen length =>
      obtain ⟨code, isFlags, isIdent, isTxn, isGen, isLength⟩ := read
      obtain ⟨ident, gen, length⟩ : (1 ≤ ident ∧ ident ≤ 4094) ∧ 1 ≤ gen ∧ length ≤ 240 := by
        simpa [entryInRange, identInRange_iff, and_assoc] using range
      exact ⟨code, ⟨ident.1, ident.2, gen, isIdent, isGen⟩, length, isFlags, isTxn, isLength, rfl⟩
    | tallyBase flags ident txn gen value =>
      obtain ⟨code, isFlags, isIdent, isTxn, isGen, isValue⟩ := read
      obtain ⟨ident, gen⟩ : (1 ≤ ident ∧ ident ≤ 4094) ∧ 1 ≤ gen := by
        simpa [entryInRange, identInRange_iff, and_assoc] using range
      exact ⟨code, ⟨ident.1, ident.2, gen, isIdent, isGen⟩, isFlags, isTxn, isValue⟩
    | tombstone flags ident txn gen =>
      obtain ⟨code, isFlags, isIdent, isTxn, isGen⟩ := read
      obtain ⟨ident, gen⟩ : (1 ≤ ident ∧ ident ≤ 4094) ∧ 1 ≤ gen := by
        simpa [entryInRange, identInRange_iff, and_assoc] using range
      exact ⟨code, ⟨ident.1, ident.2, gen, isIdent, isGen⟩, isFlags, isTxn⟩
    | bump ordinal ident delta gen =>
      obtain ⟨code, isOrdinal, isIdent, isDelta, isGen⟩ := read
      obtain ⟨ident, gen, ordinal, delta⟩ : (1 ≤ ident ∧ ident ≤ 4094) ∧ 1 ≤ gen ∧ (1 ≤ ordinal ∧ ordinal ≤ 32) ∧ 1 ≤ delta := by
        simpa [entryInRange, identInRange_iff, and_assoc] using range
      exact ⟨code, ⟨ident.1, ident.2, gen, isIdent, isGen⟩, ordinal.1, ordinal.2, delta, isOrdinal, isDelta⟩
    | marker txn count => exact read
    | release victim sequence =>
      obtain ⟨code, isVictim, isSequence⟩ := read
      exact ⟨code, of_decide_eq_true range, isVictim, isSequence⟩
    | formatMark => exact read

end Sys2Proof.Machine
end

section
/-! ERASE and SETTLE of a mount (R133 to R138, R169, R170): the page that an erase leaves, the pages that SETTLE opens, the
report, and the store. -/

namespace Sys2Proof.Machine

variable {s : State}

/-! ### The erases of a mount -/

theorem State.pageGone_noCommit (noCommit : s.executor.commit = none) (p : PageIx) : s.pageGone p = { s with
    array := { s.array with faulted := s.array.faulted.filter (fun f => f.page ≠ p) }
    carry := s.carry.filter (fun c => c.page ≠ p) } := by
  have same (x : Executor) (none : x.commit = none) (f : CommitRecord → CommitRecord) :
      { x with commit := x.commit.map f } = x := by
    rw [none, Option.map_none, ← none]
  exact congrArg (fun x : Executor => { s with
    array := { s.array with faulted := s.array.faulted.filter (fun f => f.page ≠ p) }
    carry := s.carry.filter (fun c => c.page ≠ p), executor := x }) (same s.executor noCommit _)

theorem State.pageGone_page (s : State) (p q : PageIx) : (s.pageGone p).page q = s.page q := rfl

section
variable (noCommit : s.executor.commit = none) (p : PageIx)
include noCommit

theorem State.becomeErased_noCommit (count : Nat) : s.becomeErased p count = { s with
    carry := s.carry.filter (fun c => c.page ≠ p)
    array := { s.array with
      table := s.array.table.set p { state := .erased, eraseCount := count, sequence := none, used := 2, live := 0 }
      appendPoint := if s.openPage = some p then none else s.array.appendPoint
      faulted := s.array.faulted.filter (fun f => f.page ≠ p) } } := by
  refine (State.pageGone_noCommit ?_ p).trans rfl
  exact noCommit

theorem State.becomeRetired_noCommit : s.becomeRetired p = { s with
    carry := s.carry.filter (fun c => c.page ≠ p)
    array := { s.array with
      table := s.array.table.set p
        { state := .retired, eraseCount := (s.page p).eraseCount, sequence := none, used := 2, live := 0 }
      appendPoint := if s.openPage = some p then none else s.array.appendPoint
      faulted := s.array.faulted.filter (fun f => f.page ≠ p) } } := by
  refine (State.pageGone_noCommit ?_ p).trans rfl
  exact noCommit

end

theorem State.becomeErased_page (s : State) (p : PageIx) (count : Nat) : (s.becomeErased p count).page p
    = { state := .erased, eraseCount := count, sequence := none, used := 2, live := 0 } :=
  (State.page_setPage s p p _).trans (if_pos rfl)

theorem State.becomeRetired_page (s : State) (p : PageIx) : (s.becomeRetired p).page p
    = { state := .retired, eraseCount := (s.page p).eraseCount, sequence := none, used := 2, live := 0 } :=
  (State.page_setPage s p p _).trans (if_pos rfl)

theorem State.mountNext_erases {m : MountRecord} {q : PageIx} {rest : List PageIx} (erases : m.toErase = q :: rest) :
    s.mountNext m = (s.setMount (some m)).request .mount (some .erase) := by
  rw [State.mountNext, erases]

theorem State.mountNext_settles {m : MountRecord} {r : MountResult} (none : m.toErase = []) (result : m.result = some r) :
    s.mountNext m = s.settleMount m r := by
  rw [State.mountNext, none, result]

section
variable {m : MountRecord} (mounting : s.mount = some m) (p : PageIx) (count : Nat)
include mounting

theorem State.mountErased_ok : s.mountErased p count .ok = (s.becomeErased p count).mountNext
    { m with toErase := m.toErase.drop 1, retried := false, erasedCount := m.erasedCount + 1 } := by
  rw [State.mountErased, mounting]

theorem State.mountErased_again (first : m.retried = false) :
    s.mountErased p count .verifyFail = s.mountNext { m with retried := true } := by
  simp [State.mountErased, mounting, first]

theorem State.mountErased_retires (second : m.retried = true) : s.mountErased p count .verifyFail
    = (s.becomeRetired p).mountNext
      { m with toErase := m.toErase.drop 1, retried := false, retiredCount := m.retiredCount + 1 } := by
  simp [State.mountErased, mounting, second]

end

/-! ### The page that SETTLE opens -/

/-- p is as good as q for OPEN: a higher sequence number, or the same one and no lower index (R135). -/
def State.later (s : State) (q p : PageIx) : Prop :=
  (s.page q).sequence.getD 0 < (s.page p).sequence.getD 0 ∨
    ((s.page q).sequence.getD 0 = (s.page p).sequence.getD 0 ∧ q ≤ p)

theorem State.later_of_le {q p : PageIx} (number : (s.page q).sequence.getD 0 ≤ (s.page p).sequence.getD 0) (index : q ≤ p) :
    s.later q p := (Nat.lt_or_eq_of_le number).imp_right fun same => ⟨same, index⟩

/-- The candidate for OPEN among pages met in index order. -/
theorem foldl_openCandidate (s : State) : ∀ (xs : List PageIx) (best : PageIx), (best :: xs).Pairwise (· < ·) →
    ∃ r, xs.foldl (fun best p => match best with
      | none => some p
      | some q => if (s.page q).sequence.getD 0 ≤ (s.page p).sequence.getD 0 then some p else some q) (some best) = some r ∧
      r ∈ best :: xs ∧ ∀ q ∈ best :: xs, s.later q r
  | [], best, _ => ⟨best, rfl, List.mem_singleton_self best, fun q only => by
      rw [List.mem_singleton.1 only]
      exact State.later_of_le le_rfl le_rfl⟩
  | x :: xs, best, ordered => by
    obtain ⟨first, rest⟩ := List.pairwise_cons.1 ordered
    rw [List.foldl_cons]
    dsimp only
    by_cases better : (s.page best).sequence.getD 0 ≤ (s.page x).sequence.getD 0
    · obtain ⟨r, result, member, all⟩ := foldl_openCandidate s xs x rest
      rw [if_pos better]
      refine ⟨r, result, List.mem_cons_of_mem _ member, fun q at' => ?_⟩
      rcases List.mem_cons.1 at' with rfl | at'
      · rcases all x List.mem_cons_self with more | ⟨same, index⟩
        · exact .inl (better.trans_lt more)
        · exact State.later_of_le (better.trans same.le) ((first x List.mem_cons_self).le.trans index)
      · exact all q at'
    · obtain ⟨r, result, member, all⟩ := foldl_openCandidate s xs best
        (List.pairwise_cons.2 ⟨fun y at' => first y (List.mem_cons_of_mem _ at'), (List.pairwise_cons.1 rest).2⟩)
      rw [if_neg better]
      refine ⟨r, result, ?_, fun q at' => ?_⟩
      · exact (List.mem_cons.1 member).elim (fun same => same ▸ List.mem_cons_self) fun at' =>
          List.mem_cons_of_mem _ (List.mem_cons_of_mem _ at')
      · rcases List.mem_cons.1 at' with rfl | at'
        · exact all q List.mem_cons_self
        · rcases List.mem_cons.1 at' with rfl | at'
          · refine .inl ((Nat.not_le.1 better).trans_le ?_)
            exact (all best List.mem_cons_self).elim (fun more => more.le) fun same => same.1.le
          · exact all q (List.mem_cons_of_mem _ at')

theorem State.openCandidate_spec (s : State) : (s.openCandidate = none → ∀ q, (s.page q).state ≠ .sealed) ∧
    ∀ p, s.openCandidate = some p → (s.page p).state = .sealed ∧ ∀ q, (s.page q).state = .sealed → s.later q p := by
  have sorted := s.pagesIn_sorted .sealed
  have members (q : PageIx) : q ∈ s.pagesIn .sealed ↔ (s.page q).state = .sealed := State.mem_pagesIn
  unfold State.openCandidate
  cases pages : s.pagesIn .sealed with
  | nil => exact ⟨fun _ q sealed => by simpa [pages] using (members q).2 sealed, by simp⟩
  | cons x xs =>
    rw [pages] at sorted members
    obtain ⟨r, result, member, all⟩ := foldl_openCandidate s xs x sorted
    refine ⟨fun none => ?_, fun p some => ?_⟩
    · exact absurd (result.symm.trans none) (by simp)
    · obtain rfl := Option.some.inj (result.symm.trans some)
      exact ⟨(members r).1 member, fun q sealed => all q ((members q).2 sealed)⟩

/-- The page of the highest sequence number, of several the one of the highest index, is the candidate. -/
theorem State.openCandidate_eq {q : PageIx} (sealed : (s.page q).state = .sealed)
    (best : ∀ x, x ≠ q → (s.page x).state = .sealed → (s.page x).sequence.getD 0 < (s.page q).sequence.getD 0 ∨
      ((s.page x).sequence.getD 0 = (s.page q).sequence.getD 0 ∧ x < q)) : s.openCandidate = some q := by
  obtain ⟨empty, found⟩ := s.openCandidate_spec
  cases candidate : s.openCandidate with
  | none => exact absurd sealed (empty candidate q)
  | some p =>
    obtain ⟨kept, all⟩ := found p candidate
    by_contra other
    have other : p ≠ q := fun same => other (by rw [same])
    rcases best p other kept with less | ⟨same, index⟩ <;> rcases all q sealed with more | ⟨equal, above⟩
    · omega
    · omega
    · omega
    · exact absurd index (Fin.not_lt.2 above)

/-- SETTLE opens the candidate if it has a free cell (R135). -/
theorem State.settlePages_spec (s : State) : ∃ table append,
    s.settlePages = { s with array := { s.array with table, appendPoint := append } } ∧
    ((∀ q, (s.page q).state ≠ .sealed) → table = s.array.table ∧ append = none) ∧
    ∀ q, (s.page q).state = .sealed → (∀ x, x ≠ q → (s.page x).state = .sealed →
        (s.page x).sequence.getD 0 < (s.page q).sequence.getD 0 ∨
          ((s.page x).sequence.getD 0 = (s.page q).sequence.getD 0 ∧ x < q)) →
      ((s.page q).used < 128 → table = s.array.table.set q { s.page q with state := .opened } ∧
        append = some (s.page q).used) ∧
      (128 ≤ (s.page q).used → table = s.array.table ∧ append = none) := by
  have settled : s.settlePages = { s with array := { s.array with
      table := s.settlePages.array.table, appendPoint := s.settlePages.array.appendPoint } } := by
    unfold State.settlePages
    split
    · split <;> rfl
    · rfl
  refine ⟨_, _, settled, fun none => ?_, fun q sealed best => ?_⟩
  · have candidate : s.openCandidate = Option.none := by
      cases candidate : s.openCandidate with
      | none => rfl
      | some p => exact absurd (s.openCandidate_spec.2 p candidate).1 (none p)
    rw [State.settlePages, candidate]
    exact ⟨rfl, rfl⟩
  · rw [State.settlePages, State.openCandidate_eq sealed best]
    refine ⟨fun free => ?_, fun full => ?_⟩
    · dsimp only
      rw [if_pos free]
      exact ⟨rfl, (congrArg (fun r : PageRec => some r.used) (State.page_setPage s q q _)).trans (by rw [if_pos rfl])⟩
    · dsimp only
      rw [if_neg (Nat.not_lt.2 full)]
      exact ⟨rfl, rfl⟩

/-! ### The notices of SETTLE -/

theorem State.sendNotice_notices (s : State) (f : Frame) :
    ∃ outgoing, (s.sendNotice f).notices = { s.notices with outgoing } := by
  unfold State.sendNotice
  split
  · exact ⟨_, rfl⟩
  · exact ⟨_, rfl⟩

/-- A notice raised changes the queue, the outgoing list and the next number (R163). -/
theorem State.raise_notices (s : State) (content : NoticeContent) : ∃ queue outgoing nextNumber,
    (s.raise content).notices = { s.notices with queue, outgoing, nextNumber } := by
  unfold State.raise
  split
  · exact ⟨_, _, _, rfl⟩
  · obtain ⟨outgoing, sent⟩ := State.sendNotice_notices (State.dropUnsent { s with notices := _ } _) _
    exact ⟨_, outgoing, _, sent⟩

/-- A notice raised with room in the queue joins it as the newest, nothing lost. -/
theorem State.raise_joins (audible : s.muted = false) (room : s.notices.queue.length < 8) (content : NoticeContent) :
    (s.raise content).notices.queue = s.notices.queue ++ [{ number := s.notices.nextNumber, lost := 0, content }] ∧
      (s.raise content).notices.nextNumber = nextNoticeNumber s.notices.nextNumber := by
  rw [raise_unmuted content audible, State.joinNotice_room content room]
  obtain ⟨outgoing, sent⟩ := State.sendNotice_notices (s.noticeQueued content 0 s.notices.queue)
    (noticeFrame { number := s.notices.nextNumber, lost := 0, content })
  rw [sent]
  exact ⟨rfl, rfl⟩

end Sys2Proof.Machine
end

section
/-! SETTLE of a mount (R134 to R138, R169, R170): the theorem about its erases and its end. -/

namespace Sys2Proof.Machine

variable {s : State}

/-! ### The report -/

/-- START raised changes the link and the notice unit alone. -/
theorem State.raiseStart_eq (s : State) (summary : Summary) :
    ∃ l u, s.raiseStart summary = { s with link := l, notices := u } := by
  unfold State.raiseStart
  dsimp only
  obtain ⟨l, u, raised⟩ := State.raise_eq { s with notices := { s.notices with
    report := { cause := s.notices.currentCause, earlier := s.notices.earlierCauses, summary }
    startAcknowledged := false } } (.start { cause := s.notices.currentCause, earlier := s.notices.earlierCauses, summary })
  rw [raised]
  split
  · obtain ⟨l', u', again⟩ := State.raise_eq { s with link := l, notices := { u with deferred := false } }
      (.supply .cautionLongBegin)
    exact ⟨l', u', again⟩
  · exact ⟨l, u, rfl⟩

/-- The report built, START raised, and a deferred SUPPLY notice after it (R169, R170). -/
theorem State.raiseStart_notices (s : State) (summary : Summary) :
    let report : Report := { cause := s.notices.currentCause, earlier := s.notices.earlierCauses, summary }
    let start : Notice := { number := s.notices.nextNumber, lost := 0, content := .start report }
    let u := (s.raiseStart summary).notices
    u.report = report ∧ u.startAcknowledged = false ∧
      (s.muted = false → s.notices.deferred = false → s.notices.queue.length < 8 → u.queue = s.notices.queue ++ [start]) ∧
      (s.muted = false → s.notices.deferred = true → s.notices.queue.length < 7 → u.deferred = false ∧
        u.queue = s.notices.queue ++ [start,
          { number := if start.number < 255 then start.number + 1 else 1, lost := 0
            content := .supply .cautionLongBegin }]) := by
  intro report start u
  let t : State := { s with notices := { s.notices with report, startAcknowledged := false } }
  obtain ⟨queue, outgoing, nextNumber, first⟩ := t.raise_notices (.start report)
  obtain ⟨l, n, raised⟩ := t.raise_eq (.start report)
  let v : State := { t.raise (.start report) with notices := { (t.raise (.start report)).notices with deferred := false } }
  obtain ⟨queue', outgoing', nextNumber', second⟩ := v.raise_notices (.supply .cautionLongBegin)
  have is : s.raiseStart summary = if s.notices.deferred then v.raise (.supply .cautionLongBegin)
    else t.raise (.start report) := rfl
  cases deferred : s.notices.deferred with
  | false =>
    have is : s.raiseStart summary = t.raise (.start report) := is.trans (if_neg (by simp [deferred]))
    refine ⟨?_, ?_, fun audible _ room => ?_, fun _ h => nomatch h⟩
    · exact (congrArg (fun w : State => w.notices.report) is).trans (congrArg NoticeUnit.report first)
    · exact (congrArg (fun w : State => w.notices.startAcknowledged) is).trans (congrArg NoticeUnit.startAcknowledged first)
    · exact (congrArg (fun w : State => w.notices.queue) is).trans (State.raise_joins (s := t) audible room _).1
  | true =>
    have is : s.raiseStart summary = v.raise (.supply .cautionLongBegin) := is.trans (if_pos deferred)
    refine ⟨?_, ?_, (fun _ h => nomatch h), fun audible _ room => ?_⟩
    · exact (congrArg (fun w : State => w.notices.report) is).trans
        ((congrArg NoticeUnit.report second).trans (congrArg NoticeUnit.report first))
    · exact (congrArg (fun w : State => w.notices.startAcknowledged) is).trans
        ((congrArg NoticeUnit.startAcknowledged second).trans (congrArg NoticeUnit.startAcknowledged first))
    · obtain ⟨joined, number⟩ := State.raise_joins (s := t) audible (by exact Nat.lt_succ_of_lt room) (.start report)
      have audible' : v.muted = false := by
        have same : v.muted = t.muted := by simp only [v, raised]; rfl
        exact same.trans audible
      have short : v.notices.queue.length < 8 := by
        change (t.raise (.start report)).notices.queue.length < 8
        rw [joined, List.length_append]
        exact Nat.succ_lt_succ room
      obtain ⟨joined', _⟩ := State.raise_joins (s := v) audible' short (.supply .cautionLongBegin)
      refine ⟨?_, ?_⟩
      · exact (congrArg (fun w : State => w.notices.deferred) is).trans (congrArg NoticeUnit.deferred second)
      · refine (congrArg (fun w : State => w.notices.queue) is).trans (joined'.trans ?_)
        change (t.raise (.start report)).notices.queue ++ [{
          number := (t.raise (.start report)).notices.nextNumber, lost := 0, content := .supply .cautionLongBegin }] = _
        rw [joined, number, List.append_assoc]
        rfl

/-- A reply changes the link and the executor alone. -/
theorem State.reply_eq (s : State) (payload : List Byte) : ∃ l x, s.reply payload = { s with link := l, executor := x } := by
  have waits (t : State) (p : Producer) : ∃ l, t.beginWait p = { t with link := l } := by
    unfold State.beginWait
    split
    · exact ⟨_, rfl⟩
    · exact ⟨_, rfl⟩
  unfold State.reply
  split
  · exact ⟨_, _, rfl⟩
  · dsimp only
    split
    · split
      · exact ⟨_, _, rfl⟩
      · obtain ⟨l, waiting⟩ := waits _ _
        exact ⟨l, _, waiting⟩
    · split
      · exact ⟨_, _, rfl⟩
      · obtain ⟨l, waiting⟩ := waits _ _
        exact ⟨l, _, waiting⟩

/-! ### The end of a mount -/

/-- What the closing of a mount tells: the report and START, or the FORMAT's reply (R137, R142). -/
def State.mountReported (s : State) (m : MountRecord) (r : MountResult) : State :=
  match m.closing with
  | none => s.raiseStart (s.summary m r)
  | some _ => s.closeFormat (s.summary m r)

theorem State.mountReported_eq (s : State) (m : MountRecord) (r : MountResult) :
    ∃ l x u, s.mountReported m r = { s with link := l, executor := x, notices := u } := by
  unfold State.mountReported
  split
  · obtain ⟨l, u, raised⟩ := s.raiseStart_eq (s.summary m r)
    exact ⟨l, s.executor, u, raised⟩
  · obtain ⟨l, x, replied⟩ := State.reply_eq { s with
      notices := { s.notices with report := { s.notices.report with summary := s.summary m r } }
      executor := { s.executor with format := none } } ([resultCode .ok] ++ beBytes 1 s.usableCount)
    exact ⟨l, x, _, replied⟩

theorem State.settleMount_eq (s : State) (m : MountRecord) (r : MountResult) :
    s.settleMount m r = (((s.presentMount r).mountDemand).mountReported m r).beginRun := by
  unfold State.settleMount State.mountReported
  cases m.closing <;> rfl

/-- What SETTLE presents: the results of RESOLVE, the OPEN page and the store state (R134 to R137). -/
theorem State.presentMount_spec (s : State) (r : MountResult) : ∃ table append,
    s.presentMount r = { s with
      directory := r.directory, carry := r.carry, txn := { s.txn with nextNumber := r.nextNumber }, mount := none
      store := (s.presentMount r).store
      array := { s.array with nextSequence := r.nextSequence, faulted := [], table, appendPoint := append } } ∧
    (s.presentMount r).store = (s.presentMount r).decideStore r.truncated ∧
    ((∀ q, (s.page q).state ≠ .sealed) → table = s.array.table ∧ append = none) ∧
    ∀ q, (s.page q).state = .sealed → (∀ x, x ≠ q → (s.page x).state = .sealed →
        (s.page x).sequence.getD 0 < (s.page q).sequence.getD 0 ∨
          ((s.page x).sequence.getD 0 = (s.page q).sequence.getD 0 ∧ x < q)) →
      ((s.page q).used < 128 → table = s.array.table.set q { s.page q with state := .opened } ∧
        append = some (s.page q).used) ∧
      (128 ≤ (s.page q).used → table = s.array.table ∧ append = none) := by
  obtain ⟨table, append, settled, noPage, best⟩ := State.settlePages_spec { s with
    directory := r.directory, carry := r.carry, txn := { s.txn with nextNumber := r.nextNumber }
    array := { s.array with nextSequence := r.nextSequence, faulted := [] } }
  refine ⟨table, append, ?_, rfl, noPage, best⟩
  exact congrArg (fun w : State => { w with store := (s.presentMount r).store, mount := none }) settled

/-- The automatic demand as the end of a mount leaves it (R137). -/
theorem State.mountDemand_eq (s : State) : s.mountDemand = { s with compaction :=
    if s.erasedCount < 2 ∨ 64 < s.tombstoneCount then { s.compaction with automaticDemand := true } else s.compaction } := by
  unfold State.mountDemand
  split <;> rfl

/-- The parts of a state that the close of SETTLE reads, as they are in another state. -/
structure Presents (s t : State) : Prop where
  array : t.array = s.array
  directory : t.directory = s.directory
  carry : t.carry = s.carry
  txn : t.txn = s.txn
  mount : t.mount = s.mount
  store : t.store = s.store
  supply : t.supply = s.supply
  restarting : t.restarting = s.restarting

section
variable {t : State} (h : Presents s t)
include h

theorem Presents.countIn (st : PageState) : t.countIn st = s.countIn st := by
  unfold State.countIn State.pagesIn State.page
  rw [h.array]

theorem Presents.erasedCount : t.erasedCount = s.erasedCount := h.countIn .erased

theorem Presents.usableCount : t.usableCount = s.usableCount := by
  unfold State.usableCount State.page
  rw [h.array]

theorem Presents.tombstoneCount : t.tombstoneCount = s.tombstoneCount := by
  simp only [State.tombstoneCount, h.directory]

theorem Presents.summary (m : MountRecord) (r : MountResult) : t.summary m r = s.summary m r := by
  simp only [State.summary, h.erasedCount, h.countIn, h.tombstoneCount, h.store, h.directory]

end

theorem State.mountDemand_keeps (s : State) : s.mountDemand.notices = s.notices ∧ s.mountDemand.executor = s.executor ∧
    s.mountDemand.link = s.link := by
  rw [s.mountDemand_eq]
  exact ⟨rfl, rfl, rfl⟩

theorem State.mountDemand_presents (s : State) : Presents s s.mountDemand := by
  rw [s.mountDemand_eq]
  exact ⟨rfl, rfl, rfl, rfl, rfl, rfl, rfl, rfl⟩

theorem State.mountReported_presents (s : State) (m : MountRecord) (r : MountResult) : Presents s (s.mountReported m r) := by
  obtain ⟨l, x, u, reported⟩ := s.mountReported_eq m r
  rw [reported]
  exact ⟨rfl, rfl, rfl, rfl, rfl, rfl, rfl, rfl⟩

/-- A restart's mount has ended: the report and its notices, the executor left as it was (R169, R170). -/
theorem State.mountReported_restart {m : MountRecord} (restart : m.closing = none) (r : MountResult) :
    s.mountReported m r = s.raiseStart (s.summary m r) := by
  rw [State.mountReported, restart]

/-- A FORMAT's closing mount has ended: the FORMAT is answered with the number of usable pages (R142). -/
theorem State.mountReported_format {m : MountRecord} {erased : List PageIx} (closing : m.closing = some erased)
    (r : MountResult) {q : Request} (executing : s.executor.executing = some q) (room : s.txRoom = true) :
    s.mountReported m r = State.answered { s with
      notices := { s.notices with report := { s.notices.report with summary := s.summary m r } }
      executor := { s.executor with format := none } } q ([0x00] ++ beBytes 1 s.usableCount) := by
  rw [State.mountReported, closing]
  exact State.reply_room (s := { s with
      notices := { s.notices with report := { s.notices.report with summary := s.summary m r } }
      executor := { s.executor with format := none } }) executing room _

/-- The engine's record when a mount has ended, idle before it (R137). -/
theorem State.mountReported_compaction (s : State) (m : MountRecord) (r : MountResult) :
    (s.mountReported m r).compaction = s.compaction := by
  obtain ⟨l, x, u, reported⟩ := s.mountReported_eq m r
  rw [reported]

/-- A run begins at the end of a mount where the store is READY and a demand is set (R105). -/
theorem State.beginRun_demanded (ready : s.store = .ready)
    (demanded : s.compaction = { Compaction.idle with automaticDemand := true }) :
    s.selects 0 true 0 0 (.next s.beginRun) := by
  have begins : s.beginRun = s.enterSelect := if_pos ⟨by rw [demanded]; rfl, ready, by rw [State.demanded, demanded]; rfl⟩
  have selects := enterSelect_selects s
  rw [demanded] at selects
  rw [begins]
  exact selects

theorem State.beginRun_not (h : s.store ≠ .ready ∨ s.compaction = Compaction.idle) : s.beginRun = s := by
  refine if_neg fun ⟨_, ready, wanted⟩ => ?_
  rcases h with other | idle
  · exact other ready
  · simp [State.demanded, idle, Compaction.idle] at wanted

theorem State.eraseDone_mount (s : State) (p : PageIx) (count : Nat) (outcome : ArrayOutcome) :
    s.eraseDone (some .mount) p count outcome = s.mountErased p count outcome := rfl

/-- s with nothing in flight and other cells. -/
def State.withLanded (s : State) (cells : Memory) : State := { s with array := { s.array with inFlight := none, cells } }

/-- An erase of a mount has completed, and the executor has nothing to take. -/
theorem exec_mountErased (running : s.restarting = none) {p : PageIx} {count : Nat}
    (flight : s.array.inFlight = some { owner := some .mount, op := .erase p count }) {outcome : ArrayOutcome} {cells : Memory}
    (landed : s.landed.landErase p count outcome = s.withLanded cells) {t : State}
    (erased : (s.withLanded cells).mountErased p count outcome = t) (rest : t.nothingToTake) :
    exec (.eraseComplete outcome) s = .next t := by
  rw [exec_eraseComplete running flight, landed, State.eraseDone_mount, erased, State.runExecutor_nothing rest]

/-- Settles O51: the erases of a mount, and the state in which SETTLE leaves the device. -/
theorem mountErasesAndSettles : Obligations.MountErasesAndSettles := by
  refine ⟨fun m p count s running flight nothing mounting => ?erases, fun m r s running idle => ?settles⟩
  case erases =>
    have ok : s.landed.landErase p count .ok
        = s.withLanded ((s.array.cells.clearPage p).write (cellAddress p 0) (.word (wearHeader count))) := by
      simp only [State.landErase, State.landed, State.withLanded]
    have fail : s.landed.landErase p count .verifyFail = s.withLanded (s.array.cells.spoilPage p) := by
      simp only [State.landErase, State.landed, State.withLanded]
    generalize (s.array.cells.clearPage p).write (cellAddress p 0) (.word (wearHeader count)) = clear at ok ⊢
    generalize s.array.cells.spoilPage p = spoilt at fail ⊢
    refine ⟨fun rest erases first => ?_, fun q rest erases => ⟨?_, fun second => ?_⟩, fun r erases result free noCommit => ?_⟩
    · exact ⟨_, exec_mountErased running flight fail ((State.mountErased_again (s := s.withLanded spoilt) mounting p count
        first).trans (State.mountNext_erases erases)) nothing, rfl, rfl, rfl⟩
    · have left : m.toErase.drop 1 = q :: rest := by rw [erases]; rfl
      refine ⟨_, exec_mountErased running flight ok ((State.mountErased_ok (s := s.withLanded clear) mounting p count).trans
        (State.mountNext_erases left)) nothing, State.becomeErased_page (s.withLanded clear) p count, by rw [left]; rfl, rfl⟩
    · have left : m.toErase.drop 1 = q :: rest := by rw [erases]; rfl
      refine ⟨_, exec_mountErased running flight fail ((State.mountErased_retires (s := s.withLanded spoilt) mounting p count
        second).trans (State.mountNext_erases left)) nothing, State.becomeRetired_page (s.withLanded spoilt) p,
        by rw [left]; rfl, rfl⟩
    · have left : m.toErase.drop 1 = [] := by rw [erases]; rfl
      intro gone
      refine ⟨?_, fun second => ?_⟩
      · refine exec_mountErased running flight ok ((State.mountErased_ok (s := s.withLanded clear) mounting p count).trans
          ((State.mountNext_settles (r := r) ?_ ?_).trans ?_)) ?_
        · exact left
        · exact result
        · rw [State.becomeErased_noCommit (s := s.withLanded clear) noCommit, left]
          rfl
        · exact State.nothingToTake_queue ((State.settleMount_queue _ _ _).trans free)
      · refine exec_mountErased running flight fail ((State.mountErased_retires (s := s.withLanded spoilt) mounting p count
          second).trans ((State.mountNext_settles (r := r) ?_ ?_).trans ?_)) ?_
        · exact left
        · exact result
        · rw [State.becomeRetired_noCommit (s := s.withLanded spoilt) noCommit, left]
          rfl
        · exact State.nothingToTake_queue ((State.settleMount_queue _ _ _).trans free)
  case settles =>
    obtain ⟨table, append, presented, store, noPage, best⟩ := s.presentMount_spec r
    obtain ⟨t, told⟩ : ∃ t, ((s.presentMount r).mountDemand).mountReported m r = t := ⟨_, rfl⟩
    have finish : s.settleMount m r = t.beginRun := by rw [s.settleMount_eq m r, told]
    have engine := (s.presentMount r).mountDemand_eq
    have demands := (s.presentMount r).mountDemand_presents
    have reports := ((s.presentMount r).mountDemand).mountReported_presents m r
    have same := ((s.presentMount r).mountDemand).mountReported_compaction m r
    rw [told] at reports same
    refine ⟨t, ?_⟩
    intro ended kept demand usable summary report start demanded
    have sameUsable : usable = (s.presentMount r).usableCount := reports.usableCount.trans demands.usableCount
    have sameArray : t.array = (s.presentMount r).array := reports.array.trans demands.array
    have directory : t.directory = r.directory :=
      reports.directory.trans (demands.directory.trans (congrArg State.directory presented))
    have isSummary : ((s.presentMount r).mountDemand).summary m r = summary := by
      rw [← reports.summary, State.summary, directory]
    have compaction : t.compaction = if demand then demanded else Compaction.idle := by
      have was : (s.presentMount r).compaction = Compaction.idle := (congrArg State.compaction presented).trans idle
      rw [same, engine, was, ← demands.erasedCount, ← demands.tombstoneCount, ← reports.erasedCount, ← reports.tombstoneCount]
    have notices : ((s.presentMount r).mountDemand).notices = s.notices :=
      (s.presentMount r).mountDemand_keeps.1.trans (by rw [presented])
    have executor : ((s.presentMount r).mountDemand).executor = s.executor :=
      (s.presentMount r).mountDemand_keeps.2.1.trans (by rw [presented])
    have link : ((s.presentMount r).mountDemand).link = s.link :=
      (s.presentMount r).mountDemand_keeps.2.2.trans (by rw [presented])
    have wanted (some : demand) : t.compaction = demanded := compaction.trans (if_pos some)
    have settled (none : ¬demand) : t.compaction = Compaction.idle := compaction.trans (if_neg none)
    refine ⟨⟨?_, directory, ?_, ?_, ?_, ?_, ?_⟩, ?_, ⟨wanted, settled⟩, fun none => ?_, fun q sealed highest => ?_,
      fun restart high => ?_, fun erased q closing finishes => ?_, fun ends => ?_, fun ready some => ?_⟩
    · exact reports.mount.trans (demands.mount.trans (congrArg State.mount presented))
    · exact reports.carry.trans (demands.carry.trans (congrArg State.carry presented))
    · exact reports.txn.trans (demands.txn.trans (congrArg State.txn presented))
    · rw [sameArray, presented]
    · rw [sameArray, presented]
    · rw [sameArray, presented]
    · rw [reports.store, demands.store, store, State.decideStore, ← sameUsable,
        show (s.presentMount r).array.nextSequence = r.nextSequence from congrArg (fun w : State => w.array.nextSequence) presented]
    · rw [sameArray, presented]
      exact noPage none
    · rw [sameArray, presented]
      exact best q sealed highest
    · have raised := told.symm.trans (State.mountReported_restart restart r)
      obtain ⟨l, u, shape⟩ := ((s.presentMount r).mountDemand).raiseStart_eq (((s.presentMount r).mountDemand).summary m r)
      obtain ⟨isReport, unacknowledged, one, two⟩ :=
        ((s.presentMount r).mountDemand).raiseStart_notices (((s.presentMount r).mountDemand).summary m r)
      have audible : ((s.presentMount r).mountDemand).muted = false := by
        rw [State.muted, demands.supply, demands.restarting, presented]
        exact muted_eq_false high (by simp [running])
      rw [← raised, notices, isSummary] at isReport one two
      rw [← raised] at unacknowledged
      exact ⟨(congrArg State.executor (raised.trans shape)).trans executor, isReport, unacknowledged, one audible, two audible⟩
    · have replied := told.symm.trans (State.mountReported_format closing r
        ((congrArg Executor.executing executor).trans finishes.2.1) (by rw [State.txRoom, link]; exact finishes.txRoom))
      rw [isSummary, demands.usableCount, ← sameUsable] at replied
      refine ⟨(congrArg State.link replied).trans ?_, (congrArg State.executor replied).trans ?_,
        (congrArg State.notices replied).trans ?_⟩
      · simp only [State.answered, State.replied]
        rw [link]
      · simp only [State.answered, State.replied]
        rw [executor]
      · simp only [State.answered, State.replied]
        rw [notices]
    · refine finish.trans (State.beginRun_not (ends.imp (fun readOnly => ?_) settled))
      rw [readOnly]
      simp
    · rw [show ended = t.beginRun from finish]
      exact State.beginRun_demanded ready (wanted some)

end Sys2Proof.Machine
end

section
/-! RESOLVE of a mount (R126, R127, R133): the pages that are discarded, the order of the sweep and of the erases, and the
highest of several numbers. -/

namespace Sys2Proof.Machine

/-! ### The highest number -/

theorem highest_eq {ns : List Nat} {n : Nat} (bound : ∀ k ∈ ns, k ≤ n) (reached : n = 0 ∨ n ∈ ns) : highest ns = n := by
  obtain ⟨_, each, is⟩ := le_foldl_max (fun k : Nat => k) ns 0
  change ∀ k ∈ ns, k ≤ highest ns at each
  change highest ns = 0 ∨ ∃ k ∈ ns, highest ns = k at is
  have low : highest ns ≤ n := by
    rcases is with zero | ⟨k, member, same⟩
    · omega
    · exact same ▸ bound k member
  rcases reached with rfl | member
  · omega
  · exact le_antisymm low (each n member)

theorem highest_ge {ns : List Nat} {k : Nat} (member : k ∈ ns) : k ≤ highest ns :=
  (le_foldl_max (fun k : Nat => k) ns 0).2.1 k member

theorem highest_reached (ns : List Nat) : highest ns = 0 ∨ highest ns ∈ ns := by
  rcases (le_foldl_max (fun k : Nat => k) ns 0).2.2 with zero | ⟨k, member, same⟩
  · exact .inl zero
  · exact .inr ((show highest ns = k from same) ▸ member)

/-- The highest of the highest numbers of several lists. -/
theorem highest_flatMap {α : Type} (xs : List α) (f : α → List Nat) :
    highest (xs.map (fun x => highest (f x))) = highest (xs.flatMap f) := by
  refine highest_eq (fun k member => ?_) ?_
  · obtain ⟨x, inside, rfl⟩ := List.mem_map.1 member
    rcases highest_reached (f x) with zero | member
    · omega
    · exact highest_ge (List.mem_flatMap.2 ⟨x, inside, member⟩)
  · rcases highest_reached (xs.flatMap f) with zero | member
    · exact .inl zero
    · obtain ⟨x, inside, there⟩ := List.mem_flatMap.1 member
      refine .inr (List.mem_map.2 ⟨x, inside, highest_eq (fun k at' => ?_) (.inr there)⟩)
      exact highest_ge (List.mem_flatMap.2 ⟨x, inside, at'⟩)

/-! ### Sorting -/

section
variable (before : PageScan → PageScan → Bool)

theorem insertBy_perm (x : PageScan) : ∀ xs, (insertBy before x xs).Perm (x :: xs)
  | [] => .refl _
  | y :: rest => by
    rw [insertBy]
    split
    · exact .refl _
    · exact ((insertBy_perm x rest).cons y).trans (.swap x y rest)

theorem sortBy_perm : ∀ xs, (sortBy before xs).Perm xs
  | [] => .refl _
  | x :: rest => (insertBy_perm before x _).trans ((sortBy_perm rest).cons x)

variable {before} (total : ∀ x y, before x y = true ∨ before y x = true)
  (trans : ∀ x y z, before x y = true → before y z = true → before x z = true)
include total trans

theorem insertBy_sorted (x : PageScan) : ∀ xs, xs.Pairwise (fun a b => before a b = true) →
    (insertBy before x xs).Pairwise (fun a b => before a b = true)
  | [], _ => List.pairwise_singleton _ _
  | y :: rest, sorted => by
    obtain ⟨first, others⟩ := List.pairwise_cons.1 sorted
    rw [insertBy]
    split
    · next here =>
      refine List.pairwise_cons.2 ⟨fun z member => ?_, sorted⟩
      rcases List.mem_cons.1 member with rfl | member
      · exact here
      · exact trans x y z here (first z member)
    · next later =>
      refine List.pairwise_cons.2 ⟨fun z member => ?_, insertBy_sorted x rest others⟩
      rcases List.mem_cons.1 ((insertBy_perm before x rest).mem_iff.1 member) with rfl | member
      · exact (total z y).resolve_left later
      · exact first z member

theorem sortBy_sorted : ∀ xs, (sortBy before xs).Pairwise (fun a b => before a b = true)
  | [] => List.Pairwise.nil
  | x :: rest => insertBy_sorted total trans x _ (sortBy_sorted rest)

/-- Of two pages the one that must come first does. -/
theorem sortBy_order {xs : List PageScan} {x y : PageScan} (hx : x ∈ xs) (hy : y ∈ xs) (not : before y x ≠ true) :
    List.Sublist [x, y] (sortBy before xs) := by
  have hx := (sortBy_perm before xs).mem_iff.2 hx
  have hy := (sortBy_perm before xs).mem_iff.2 hy
  have sorted := sortBy_sorted total trans xs
  obtain ⟨front, back, split⟩ := List.append_of_mem hx
  rw [split] at hy sorted ⊢
  rcases List.mem_append.1 hy with early | late
  · exact absurd ((List.pairwise_append.1 sorted).2.2 y early x List.mem_cons_self) not
  · rcases List.mem_cons.1 late with rfl | late
    · exact absurd ((total y y).elim id id) not
    · exact ((List.singleton_sublist.2 late).cons_cons x).trans (List.sublist_append_right front (x :: back))

end

theorem sweepBefore_iff (x y : PageScan) : sweepBefore x y = true ↔ x.sequence.getD 0 < y.sequence.getD 0 ∨
    (x.sequence.getD 0 = y.sequence.getD 0 ∧ x.page ≤ y.page) := by
  rw [sweepBefore, decide_eq_true_eq]
  exact Iff.rfl

theorem sweepBefore_total (x y : PageScan) : sweepBefore x y = true ∨ sweepBefore y x = true := by
  simp only [sweepBefore, decide_eq_true_eq]
  omega

theorem sweepBefore_trans (x y z : PageScan) (first : sweepBefore x y = true) (second : sweepBefore y z = true) :
    sweepBefore x z = true := by
  simp only [sweepBefore, decide_eq_true_eq] at *
  omega

/-- The order of the erases (R133). -/
def eraseBefore (x y : PageScan) : Bool :=
  match x.sequence, y.sequence with
  | none, none => decide (x.page.val ≤ y.page.val)
  | none, some _ => true
  | some _, none => false
  | some m, some n => decide (m < n ∨ (m = n ∧ (holdsMark x = false ∨ holdsMark y = true)))

theorem eraseOrder_eq (scans : List PageScan) : eraseOrder scans
    = (sortBy eraseBefore ((afterDiscards scans).filter (fun x => decide (x.cls = .pendingErase)))).map PageScan.page := rfl

theorem eraseBefore_total (x y : PageScan) : eraseBefore x y = true ∨ eraseBefore y x = true := by
  unfold eraseBefore
  cases x.sequence <;> cases y.sequence <;> simp
  · omega
  · cases holdsMark x <;> cases holdsMark y <;> simp <;> omega

theorem eraseBefore_trans (x y z : PageScan) (first : eraseBefore x y = true) (second : eraseBefore y z = true) :
    eraseBefore x z = true := by
  unfold eraseBefore at *
  generalize x.sequence = a at first ⊢
  generalize y.sequence = b at first second
  generalize z.sequence = c at second ⊢
  rcases a with _ | m <;> rcases b with _ | n <;> rcases c with _ | k <;>
    simp only [decide_eq_true_eq, Bool.false_eq_true] at first second ⊢
  · omega
  · rcases first with less | ⟨rfl, marks⟩ <;> rcases second with less' | ⟨rfl, marks'⟩
    · exact .inl (less.trans less')
    · exact .inl less
    · exact .inl less'
    · refine .inr ⟨rfl, marks.elim .inl fun marked => ?_⟩
      exact .inr (marks'.resolve_left (by simp [marked]))

/-! ### The discards -/

theorem holdsMark_iff (x : PageScan) : holdsMark x = true ↔ ∃ at', (at', Entry.formatMark) ∈ x.entries := by
  simp [holdsMark]

theorem mem_releasesOf {scans : List PageScan} {victim sequence : Nat} : (victim, sequence) ∈ releasesOf scans ↔
    ∃ y ∈ scans, y.sequence ≠ none ∧ ∃ at', (at', Entry.release victim sequence) ∈ y.entries := by
  simp only [releasesOf, List.mem_flatMap, List.mem_filter, List.mem_filterMap, Option.isSome_iff_ne_none]
  constructor
  · rintro ⟨y, ⟨member, opened⟩, ⟨at', e⟩, inside, is⟩
    cases e with
    | release v q =>
      obtain ⟨rfl, rfl⟩ := Prod.mk.inj (Option.some.inj is)
      exact ⟨y, member, opened, at', inside⟩
    | _ => simp at is
  · rintro ⟨y, member, opened, at', inside⟩
    exact ⟨y, ⟨member, opened⟩, _, inside, rfl⟩

/-- A page that a RELEASE or a FORMAT_MARK discards (R126). -/
theorem discardedBy_iff (scans : List PageScan) (x : PageScan) :
    discardedBy (releasesOf scans) (marksOf scans) x = true ↔
      (∃ y ∈ scans, y.sequence ≠ none ∧ ∃ at', (at', Entry.release x.page.val (x.sequence.getD 0)) ∈ y.entries) ∨
        ∃ y ∈ scans, y.cls = .holdsEntries ∧ (∃ at', (at', Entry.formatMark) ∈ y.entries) ∧
          x.sequence.getD 0 ≤ y.sequence.getD 0 := by
  simp only [discardedBy, Bool.or_eq_true, decide_eq_true_eq, mem_releasesOf, List.any_eq_true, marksOf, List.mem_filter,
    Bool.and_eq_true, holdsMark_iff, and_assoc]

end Sys2Proof.Machine
end

section
/-! RESOLVE of a mount (R127 to R131): the markers that match, the candidates, the current entry of an identifier, and the
current bumps of a tally. -/

namespace Sys2Proof.Machine

/-! ### The markers that match -/

/-- The transaction and identifier of a non-SELF version (R128). -/
def Swept.pending (x : Swept) : Option (Nat × Nat) :=
  match versionOf x.entry with
  | some (ident, txn, false) => some (txn, ident)
  | _ => none

/-- A marker with the pending list of its transaction before it (R128). -/
def Swept.matched (x : Swept) (seen : List (Nat × Nat)) : List (Nat × PageIx) :=
  match x.entry with
  | .marker txn count =>
    if count = ((seen.filter (fun p => p.1 = txn)).map (fun p => p.2)).eraseDups.length then [(txn, x.loc.page)] else []
  | _ => []

theorem matchingMarkers_cons (seen : List (Nat × Nat)) (x : Swept) (rest : List Swept) :
    matchingMarkers seen (x :: rest) = x.matched seen ++ matchingMarkers (seen ++ x.pending.toList) rest := by
  have version (flags : Byte) (ident txn : Nat) (version : versionOf x.entry = some (ident, txn, selfFlag flags)) :
      (match versionOf x.entry with
        | some (ident, txn, false) => matchingMarkers (seen ++ [(txn, ident)]) rest
        | _ => matchingMarkers seen rest) = matchingMarkers (seen ++ x.pending.toList) rest := by
    rw [Swept.pending, version]
    cases selfFlag flags <;> simp
  rw [matchingMarkers, Swept.matched]
  cases entry : x.entry with
  | blob flags ident txn gen length =>
    rw [entry] at version
    exact version flags ident txn rfl
  | tallyBase flags ident txn gen value =>
    rw [entry] at version
    exact version flags ident txn rfl
  | tombstone flags ident txn gen =>
    rw [entry] at version
    exact version flags ident txn rfl
  | marker txn count =>
    simp only [Swept.pending, entry, versionOf, Option.toList_none, List.append_nil]
    split <;> rfl
  | bump ordinal ident delta gen => simp [Swept.pending, entry, versionOf]
  | release victim sequence => simp [Swept.pending, entry, versionOf]
  | formatMark => simp [Swept.pending, entry, versionOf]

theorem matchingMarkers_append (x : Swept) : ∀ (before : List Swept) (seen : List (Nat × Nat)),
    matchingMarkers seen (before ++ [x])
      = matchingMarkers seen before ++ x.matched (seen ++ before.filterMap Swept.pending)
  | [], seen => by
    rw [List.nil_append, matchingMarkers_cons]
    simp [matchingMarkers]
  | y :: before, seen => by
    rw [List.cons_append, matchingMarkers_cons, matchingMarkers_cons, matchingMarkers_append x before, List.append_assoc,
      List.append_assoc, List.filterMap_cons]
    cases y.pending <;> rfl

/-- The identifier of a non-SELF version of a transaction. -/
def Swept.identOf (txn : Nat) (x : Swept) : Option Nat :=
  match versionOf x.entry with
  | some (ident, t, self) => if t = txn ∧ self = false then some ident else none
  | none => none

/-- The pending identifiers of a transaction. -/
theorem pending_idents (before : List Swept) (txn : Nat) :
    ((before.filterMap Swept.pending).filter (fun p => p.1 = txn)).map (fun p => p.2)
      = before.filterMap (Swept.identOf txn) := by
  rw [List.filter_filterMap, List.map_filterMap]
  refine List.filterMap_congr fun y _ => ?_
  rw [Swept.pending, Swept.identOf]
  rcases versionOf y.entry with _ | ⟨ident, t, self⟩
  · rfl
  · cases self
    · by_cases same : t = txn <;> simp [same]
    · simp

theorem commitPageOf_last {before after : List (Nat × PageIx)} {c : Nat × PageIx} (last : ∀ y ∈ after, y.1 ≠ c.1) :
    commitPageOf (before ++ c :: after) c.1 = some c.2 := by
  have none : after.filter (fun y => y.1 = c.1) = [] := List.filter_eq_nil_iff.2 (by simpa using last)
  rw [commitPageOf, List.filter_append, List.filter_cons_of_pos (by simp), none]
  simp

/-! ### The candidates -/

theorem isCommitted_iff {commits : List (Nat × PageIx)} {txn : Nat} :
    isCommitted commits txn = true ↔ ∃ page, (txn, page) ∈ commits := by
  simp [isCommitted]

theorem isCandidate_iff (commits : List (Nat × PageIx)) (x : Swept) : isCandidate commits x = true ↔
    (∃ ident txn, versionOf x.entry = some (ident, txn, true)) ∨ (∃ o i d g, x.entry = .bump o i d g) ∨
      ∃ ident txn page, versionOf x.entry = some (ident, txn, false) ∧ (txn, page) ∈ commits := by
  rw [isCandidate]
  rcases version : versionOf x.entry with _ | ⟨ident, txn, self⟩
  · cases entry : x.entry <;> simp_all [versionOf, entryIdent]
  · have notBump : ¬∃ o i d g, x.entry = .bump o i d g := by
      rintro ⟨o, i, d, g, bump⟩
      simp [bump, versionOf] at version
    cases self <;> simp [notBump, isCommitted_iff]

/-! ### The current entry of an identifier -/

section
variable {ident : Nat} {x : Swept}

theorem placeCurrent_other {i : Nat} (other : i ≠ ident) (y : Swept) : ∀ acc : List (Nat × Swept),
    (i, y) ∈ placeCurrent ident x acc ↔ (i, y) ∈ acc
  | [] => by simp [placeCurrent, other]
  | (j, z) :: rest => by
    rw [placeCurrent]
    split
    · simp [other]
    · split
      · next same =>
        have other : i ≠ j := same ▸ other
        split <;> simp [other]
      · rw [List.mem_cons, List.mem_cons, placeCurrent_other other y rest]

theorem mem_placeCurrent {i : Nat} {y : Swept} : ∀ {acc : List (Nat × Swept)}, (i, y) ∈ placeCurrent ident x acc →
    (i, y) ∈ acc ∨ (i = ident ∧ y = x)
  | [], member => by simpa [placeCurrent] using member
  | (j, z) :: rest, member => by
    rw [placeCurrent] at member
    split at member
    · exact (List.mem_cons.1 member).elim (fun same => .inr (Prod.mk.inj same)) .inl
    · split at member
      · next same =>
        rcases List.mem_cons.1 member with here | there
        · split at here
          · obtain ⟨rfl, rfl⟩ := Prod.mk.inj here
            exact .inr ⟨same.symm, rfl⟩
          · exact .inl (here ▸ List.mem_cons_self)
        · exact .inl (List.mem_cons_of_mem _ there)
      · rcases List.mem_cons.1 member with here | there
        · exact .inl (here ▸ List.mem_cons_self)
        · exact (mem_placeCurrent there).imp_left (List.mem_cons_of_mem _)

theorem placeCurrent_new : ∀ {acc : List (Nat × Swept)}, (∀ y, (ident, y) ∉ acc) → (ident, x) ∈ placeCurrent ident x acc
  | [], _ => by simp [placeCurrent]
  | (j, z) :: rest, absent => by
    rw [placeCurrent]
    split
    · exact List.mem_cons_self
    · split
      · next same => exact absurd (same ▸ List.mem_cons_self) (absent z)
      · exact List.mem_cons_of_mem _ (placeCurrent_new fun y member => absent y (List.mem_cons_of_mem _ member))

/-- Of the entry so far and the one placed the later of the higher generation stays (R129). -/
theorem placeCurrent_present {y : Swept} : ∀ {acc : List (Nat × Swept)}, acc.Pairwise (fun a b => a.1 < b.1) →
    (ident, y) ∈ acc →
      (ident, if entryGen y.entry ≤ entryGen x.entry then x else y) ∈ placeCurrent ident x acc
  | (j, z) :: rest, sorted, member => by
    obtain ⟨first, others⟩ := List.pairwise_cons.1 sorted
    rw [placeCurrent]
    rcases List.mem_cons.1 member with here | there
    · obtain ⟨rfl, rfl⟩ := Prod.mk.inj here
      rw [if_neg (lt_irrefl _), if_pos rfl]
      refine List.mem_cons.2 (.inl ?_)
      split <;> rfl
    · have later : j < ident := first _ there
      rw [if_neg (Nat.lt_asymm later), if_neg (Nat.ne_of_gt later)]
      exact List.mem_cons_of_mem _ (placeCurrent_present others there)

end

/-- An entry is a version of an identifier. -/
def Swept.versions (ident : Nat) (x : Swept) : Prop := ∃ txn self, versionOf x.entry = some (ident, txn, self)

theorem currentEntries_version {xs : List Swept} {x : Swept} {ident : Nat} (version : x.versions ident) :
    currentEntries (xs ++ [x]) = placeCurrent ident x (currentEntries xs) := by
  obtain ⟨txn, self, version⟩ := version
  rw [currentEntries, List.foldl_append, List.foldl_cons, List.foldl_nil, version]
  rfl

theorem currentEntries_other {xs : List Swept} {x : Swept} (none : ∀ ident, ¬x.versions ident) :
    currentEntries (xs ++ [x]) = currentEntries xs := by
  have none : versionOf x.entry = Option.none := by
    rcases version : versionOf x.entry with _ | ⟨ident, txn, self⟩
    · rfl
    · exact absurd ⟨txn, self, version⟩ (none ident)
  rw [currentEntries, List.foldl_append, List.foldl_cons, List.foldl_nil, none]
  rfl

theorem mem_currentEntries {xs : List Swept} : ∀ {ident : Nat} {x : Swept}, (ident, x) ∈ currentEntries xs →
    x ∈ xs ∧ x.versions ident := by
  induction xs using List.reverseRecOn with
  | nil => simp [currentEntries]
  | append_singleton xs z ih =>
    intro ident x member
    by_cases version : ∃ i, z.versions i
    · obtain ⟨i, version⟩ := version
      rw [currentEntries_version version] at member
      rcases mem_placeCurrent member with before | ⟨rfl, rfl⟩
      · exact ⟨List.mem_append_left _ (ih before).1, (ih before).2⟩
      · exact ⟨List.mem_append_right _ (List.mem_singleton_self _), version⟩
    · rw [currentEntries_other (not_exists.1 version)] at member
      exact ⟨List.mem_append_left _ (ih member).1, (ih member).2⟩

/-- The last version of the highest generation is the current entry (R129). -/
theorem currentEntries_last {before : List Swept} {x : Swept} {ident : Nat} (version : x.versions ident)
    (earlier : ∀ y ∈ before, y.versions ident → entryGen y.entry ≤ entryGen x.entry) (after : List Swept) :
    (∀ y ∈ after, y.versions ident → entryGen y.entry < entryGen x.entry) →
      (ident, x) ∈ currentEntries (before ++ x :: after) := by
  induction after using List.reverseRecOn with
  | nil =>
    intro _
    rw [currentEntries_version version]
    by_cases present : ∃ y, (ident, y) ∈ currentEntries before
    · obtain ⟨y, present⟩ := present
      obtain ⟨member, same⟩ := mem_currentEntries present
      have placed := placeCurrent_present (x := x) (currentEntries_sorted before) present
      rwa [if_pos (earlier y member same)] at placed
    · exact placeCurrent_new (not_exists.1 present)
  | append_singleton after z ih =>
    intro later
    have stands := ih fun y member => later y (List.mem_append_left _ member)
    rw [← List.cons_append, ← List.append_assoc]
    by_cases mine : z.versions ident
    · rw [currentEntries_version mine]
      have placed := placeCurrent_present (x := z) (currentEntries_sorted _) stands
      rwa [if_neg (Nat.not_le.2 (later z (by simp) mine))] at placed
    · by_cases other : ∃ i, z.versions i
      · obtain ⟨i, other⟩ := other
        have apart : ident ≠ i := fun same => mine (same ▸ other)
        rw [currentEntries_version other]
        exact (placeCurrent_other apart x _).2 stands
      · rw [currentEntries_other (not_exists.1 other)]
        exact stands

/-! ### The current bumps of a tally -/

/-- A bump of an ordinal of a tally's generation, with its delta. -/
def Swept.bumpAt (ident gen k : Nat) (x : Swept) : Option (BumpLoc × Nat) :=
  match x.entry with
  | .bump ordinal i delta g =>
    if ordinal = k + 1 ∧ i = ident ∧ g = gen then some (({ ordinal, loc := x.loc } : BumpLoc), delta) else none
  | _ => none

theorem currentBumps_eq (candidates : List Swept) (ident gen : Nat) : currentBumps candidates ident gen
    = (List.range 32).filterMap (fun k => (candidates.filterMap (Swept.bumpAt ident gen k)).getLast?) := rfl

theorem Swept.bumpAt_iff {ident gen k : Nat} {x : Swept} {b : BumpLoc} {delta : Nat} :
    x.bumpAt ident gen k = some (b, delta) ↔ b.ordinal = k + 1 ∧ x.loc = b.loc ∧ x.entry = .bump b.ordinal ident delta gen := by
  unfold Swept.bumpAt
  cases entry : x.entry with
  | bump ordinal i d g =>
    obtain ⟨o, l⟩ := b
    simp only [Option.ite_none_right_eq_some, Option.some.injEq, Prod.mk.injEq, BumpLoc.mk.injEq, Entry.bump.injEq]
    constructor
    · rintro ⟨⟨ordinal, rfl, rfl⟩, ⟨rfl, rfl⟩, rfl⟩
      exact ⟨ordinal, rfl, rfl, rfl, rfl, rfl⟩
    · rintro ⟨ordinal, rfl, rfl, rfl, rfl, rfl⟩
      exact ⟨⟨ordinal, rfl, rfl⟩, ⟨rfl, rfl⟩, rfl⟩
  | _ => simp

theorem mem_currentBumps {candidates : List Swept} {ident gen : Nat} {b : BumpLoc} {delta : Nat} :
    (b, delta) ∈ currentBumps candidates ident gen ↔
      ∃ k < 32, (candidates.filterMap (Swept.bumpAt ident gen k)).getLast? = some (b, delta) := by
  simp [currentBumps_eq]

theorem currentBumps_last {before after : List Swept} {x : Swept} {ordinal ident delta gen : Nat}
    (bump : x.entry = .bump ordinal ident delta gen) (low : 1 ≤ ordinal) (high : ordinal ≤ 32)
    (last : ∀ y ∈ after, ∀ d, y.entry ≠ .bump ordinal ident d gen) :
    (({ ordinal, loc := x.loc } : BumpLoc), delta) ∈ currentBumps (before ++ x :: after) ident gen := by
  have index : ordinal = ordinal - 1 + 1 := by omega
  have here : x.bumpAt ident gen (ordinal - 1) = some (({ ordinal, loc := x.loc } : BumpLoc), delta) :=
    Swept.bumpAt_iff.2 ⟨index, rfl, bump⟩
  have none : after.filterMap (Swept.bumpAt ident gen (ordinal - 1)) = [] := by
    refine List.filterMap_eq_nil_iff.2 fun y member => ?_
    rcases at' : y.bumpAt ident gen (ordinal - 1) with _ | ⟨b, d⟩
    · rfl
    · obtain ⟨same, _, entry⟩ := Swept.bumpAt_iff.1 at'
      rw [same, ← index] at entry
      exact absurd entry (last y member d)
  refine mem_currentBumps.2 ⟨ordinal - 1, by omega, ?_⟩
  rw [List.filterMap_append, List.filterMap_cons, here, none]
  simp

theorem mem_currentBumps_entry {candidates : List Swept} {ident gen : Nat} {b : BumpLoc} {delta : Nat}
    (member : (b, delta) ∈ currentBumps candidates ident gen) :
    ∃ x ∈ candidates, x.loc = b.loc ∧ x.entry = .bump b.ordinal ident delta gen := by
  obtain ⟨k, _, last⟩ := mem_currentBumps.1 member
  obtain ⟨x, inside, at'⟩ := List.mem_filterMap.1 (List.mem_of_getLast? last)
  exact ⟨x, inside, (Swept.bumpAt_iff.1 at').2⟩

theorem currentBumps_ordinals (candidates : List Swept) (ident gen : Nat) :
    ((currentBumps candidates ident gen).map (fun b => b.1.ordinal)).Pairwise (fun a b => a < b) := by
  have ordinal {k : Nat} {b : BumpLoc × Nat} (last : (candidates.filterMap (Swept.bumpAt ident gen k)).getLast? = some b) :
      b.1.ordinal = k + 1 := by
    obtain ⟨x, inside, at'⟩ := List.mem_filterMap.1 (List.mem_of_getLast? last)
    exact (Swept.bumpAt_iff.1 at').1
  rw [List.pairwise_map, currentBumps_eq, List.pairwise_filterMap]
  refine List.pairwise_lt_range.imp fun less b last c last' => ?_
  rw [ordinal last, ordinal last']
  omega

end Sys2Proof.Machine
end

section
/-! RESOLVE of a mount (R126 to R134): what it makes of the scanned pages. -/

namespace Sys2Proof.Machine

/-! ### The pages -/

theorem afterDiscards_getElem {scans : List PageScan} {i : Nat} {x : PageScan} (at' : scans[i]? = some x) :
    (afterDiscards scans)[i]? = some (if x.cls = .holdsEntries ∧ discardedBy (releasesOf scans) (marksOf scans) x
      then { x with cls := .pendingErase } else x) := by
  rw [afterDiscards, List.getElem?_map, at']
  rfl

theorem keptPages_pairwise (scans : List PageScan) : (keptPages scans).Pairwise (fun x y =>
    x.sequence.getD 0 < y.sequence.getD 0 ∨ (x.sequence.getD 0 = y.sequence.getD 0 ∧ x.page ≤ y.page)) :=
  (sortBy_sorted sweepBefore_total sweepBefore_trans _).imp fun {x y} => (sweepBefore_iff x y).1

/-- Of two pages to erase the one whose erase must come first (R133). -/
theorem eraseOrder_sublist {scans : List PageScan} {x y : PageScan} (hx : x ∈ afterDiscards scans)
    (hy : y ∈ afterDiscards scans) (pendingX : x.cls = .pendingErase) (pendingY : y.cls = .pendingErase)
    (not : eraseBefore y x ≠ true) : List.Sublist [x.page, y.page] (eraseOrder scans) := by
  rw [eraseOrder_eq]
  exact (sortBy_order eraseBefore_total eraseBefore_trans (List.mem_filter.2 ⟨hx, decide_eq_true pendingX⟩)
    (List.mem_filter.2 ⟨hy, decide_eq_true pendingY⟩) not).map PageScan.page

/-- The four cases of the order of R133. -/
theorem not_eraseBefore {x y : PageScan}
    (first : (x.sequence = none ∧ y.sequence = none ∧ x.page < y.page) ∨ (x.sequence = none ∧ y.sequence ≠ none) ∨
      (x.sequence ≠ none ∧ y.sequence ≠ none ∧ x.sequence.getD 0 < y.sequence.getD 0) ∨
      (x.sequence ≠ none ∧ x.sequence = y.sequence ∧ (¬∃ at', (at', Entry.formatMark) ∈ x.entries) ∧
        ∃ at', (at', Entry.formatMark) ∈ y.entries)) :
    eraseBefore y x ≠ true := by
  unfold eraseBefore
  rcases first with ⟨noX, noY, less⟩ | ⟨noX, someY⟩ | ⟨someX, someY, less⟩ | ⟨someX, same, unmarked, marked⟩
  · rw [noX, noY]
    simpa using less
  · obtain ⟨n, someY⟩ := Option.ne_none_iff_exists'.1 someY
    simp [noX, someY]
  · obtain ⟨m, someX⟩ := Option.ne_none_iff_exists'.1 someX
    obtain ⟨n, someY⟩ := Option.ne_none_iff_exists'.1 someY
    rw [someX, someY] at less ⊢
    simp only [Option.getD_some] at less
    simp only [ne_eq, decide_eq_true_eq]
    omega
  · obtain ⟨m, someX⟩ := Option.ne_none_iff_exists'.1 someX
    rw [← holdsMark_iff] at unmarked marked
    rw [← same, someX]
    simp [unmarked, marked]

theorem mountEraseCount_eq {scans : List PageScan} {n : Nat} (bound : ∀ x ∈ scans, x.wear.getD 0 ≤ n)
    (reached : n = 0 ∨ ∃ x ∈ scans, x.wear = some n) : mountEraseCount scans = n := by
  refine highest_eq (fun k member => ?_) (reached.imp_right fun ⟨x, member, wear⟩ => ?_)
  · obtain ⟨x, inside, rfl⟩ := List.mem_map.1 member
    exact bound x inside
  · exact List.mem_map.2 ⟨x, member, by rw [wear]; rfl⟩

/-! ### The markers and the records -/

theorem matchingMarkers_marker {before : List Swept} {x : Swept} {txn count : Nat} (marker : x.entry = .marker txn count) :
    matchingMarkers [] (before ++ [x]) = matchingMarkers [] before
      ++ if count = (before.filterMap (Swept.identOf txn)).eraseDups.length then [(txn, x.loc.page)] else [] := by
  rw [matchingMarkers_append, ← pending_idents]
  simp only [Swept.matched, marker, List.nil_append]

theorem matchingMarkers_unmarked {before : List Swept} {x : Swept} (other : ∀ txn count, x.entry ≠ .marker txn count) :
    matchingMarkers [] (before ++ [x]) = matchingMarkers [] before := by
  rw [matchingMarkers_append, List.append_right_eq_self, Swept.matched]
  cases entry : x.entry with
  | marker txn count => exact absurd entry (other txn count)
  | _ => rfl

/-! ### The directory entry of a current entry -/

section
variable {candidates : List Swept} {ident : Nat} {x : Swept}

theorem formEntry_ident : (formEntry candidates (ident, x)).ident = ident := rfl
theorem formEntry_gen : (formEntry candidates (ident, x)).gen = entryGen x.entry := rfl
theorem formEntry_loc : (formEntry candidates (ident, x)).loc = x.loc := rfl

theorem formEntry_blob {flags : Byte} {i txn gen length : Nat} (entry : x.entry = .blob flags i txn gen length) :
    (formEntry candidates (ident, x)).body = .blob length ∧ (formEntry candidates (ident, x)).stale
      = (candidates.filter (fun y => entryIdent y.entry = some ident)).length - 1 := by
  simp [formEntry, entry]

theorem formEntry_tombstone {flags : Byte} {i txn gen : Nat} (entry : x.entry = .tombstone flags i txn gen) :
    (formEntry candidates (ident, x)).body = .tombstone ∧ (formEntry candidates (ident, x)).stale
      = (candidates.filter (fun y => entryIdent y.entry = some ident)).length - 1 := by
  simp [formEntry, entry]

theorem formEntry_tally {flags : Byte} {i txn gen value : Nat} (entry : x.entry = .tallyBase flags i txn gen value) :
    (formEntry candidates (ident, x)).body = .tally
        (min (value + ((currentBumps candidates ident (entryGen x.entry)).map (fun b => b.2)).sum) 4294967295)
        ((currentBumps candidates ident (entryGen x.entry)).map (fun b => b.1)) ∧
      (formEntry candidates (ident, x)).stale = (candidates.filter (fun y => entryIdent y.entry = some ident)).length - 1
        - (currentBumps candidates ident (entryGen x.entry)).length := by
  simp [formEntry, entry, Config.maxWord]

end

/-! ### The results -/

theorem marksOf_nonempty (scans : List PageScan) : (!(marksOf scans).isEmpty) = true ↔
    ∃ x ∈ scans, x.cls = .holdsEntries ∧ ∃ at', (at', Entry.formatMark) ∈ x.entries := by
  simp [marksOf, List.filter_eq_nil_iff, holdsMark_iff]

theorem mem_carryFound {commits : List (Nat × PageIx)} {sweep : List Swept} {pair : CarryPair} :
    pair ∈ carryFound commits sweep ↔ ∃ x ∈ sweep, ∃ ident page, versionOf x.entry = some (ident, pair.txn, false) ∧
      x.loc.page = pair.page ∧ (pair.txn, page) ∈ commits ∧ commitPageOf commits pair.txn ≠ some pair.page := by
  rw [carryFound, List.mem_eraseDups, List.mem_filterMap]
  refine exists_congr fun x => and_congr_right fun _ => ?_
  rcases versionOf x.entry with _ | ⟨ident, txn, self⟩
  · simp
  · obtain ⟨page, number⟩ := pair
    cases self
    · simp only [Option.ite_none_right_eq_some, isCommitted_iff, Option.some.injEq, CarryPair.mk.injEq, Prod.mk.injEq]
      constructor
      · rintro ⟨⟨⟨page', committed⟩, away⟩, rfl, rfl⟩
        exact ⟨ident, page', ⟨rfl, rfl, trivial⟩, rfl, committed, away⟩
      · rintro ⟨_, page', ⟨rfl, rfl, _⟩, rfl, committed, away⟩
        exact ⟨⟨⟨page', committed⟩, away⟩, rfl, rfl⟩
    · simp

theorem eraseDups_nodup : ∀ ns : List Nat, ns.eraseDups.Nodup
  | [] => List.nodup_nil
  | n :: rest => by
    rw [List.eraseDups_cons]
    refine List.nodup_cons.2 ⟨by simp, eraseDups_nodup _⟩
termination_by ns => ns.length
decreasing_by exact Nat.lt_succ_of_le (List.length_filter_le _ _)

/-- The transaction of a marker or of a non-SELF version. -/
def Swept.unsettled (x : Swept) : Option Nat :=
  match x.entry with
  | .marker txn _ => some txn
  | e => match versionOf e with
    | some (_, txn, false) => some txn
    | _ => none

theorem Swept.unsettled_iff (x : Swept) (txn : Nat) : x.unsettled = some txn ↔
    (∃ count, x.entry = .marker txn count) ∨ ∃ ident, versionOf x.entry = some (ident, txn, false) := by
  have version {e : Entry} : (match versionOf e with
      | some (_, txn, false) => some txn
      | _ => none) = some txn ↔ ∃ ident, versionOf e = some (ident, txn, false) := by
    rcases versionOf e with _ | ⟨ident, t, self⟩
    · simp
    · cases self <;> simp
  rw [Swept.unsettled]
  cases x.entry with
  | marker t count => simp [versionOf]
  | blob => simpa using version
  | tallyBase => simpa using version
  | tombstone => simpa using version
  | bump => simp [versionOf]
  | release => simp [versionOf]
  | formatMark => simp [versionOf]

theorem tornCount_eq (commits : List (Nat × PageIx)) (sweep : List Swept) : tornCount commits sweep
    = ((sweep.filterMap Swept.unsettled).eraseDups.filter (fun t => !isCommitted commits t)).length := rfl

/-- The torn transactions, counted (R128). -/
theorem tornCount_of {commits : List (Nat × PageIx)} {sweep : List Swept} {torn : List Nat} (nodup : torn.Nodup)
    (is : ∀ txn, txn ∈ torn ↔ (∃ x ∈ sweep, (∃ count, x.entry = .marker txn count) ∨
      ∃ ident, versionOf x.entry = some (ident, txn, false)) ∧ ∀ page, (txn, page) ∉ commits) :
    tornCount commits sweep = torn.length := by
  refine List.Perm.length_eq ((List.perm_ext_iff_of_nodup ((eraseDups_nodup _).filter _) nodup).2 fun txn => ?_)
  rw [is, List.mem_filter, List.mem_eraseDups, List.mem_filterMap]
  refine and_congr (exists_congr fun x => and_congr_right fun _ => x.unsettled_iff txn) ?_
  rw [Bool.not_eq_true', ← Bool.not_eq_true, isCommitted_iff, not_exists]

theorem lastCommitted_eq {commits : List (Nat × PageIx)} {n : Nat} (bound : ∀ c ∈ commits, c.1 ≤ n)
    (reached : n = 0 ∨ ∃ c ∈ commits, c.1 = n) : highest (commits.map (fun c => c.1)) = n := by
  refine highest_eq (fun k member => ?_) (reached.imp_right fun ⟨c, member, is⟩ => List.mem_map.2 ⟨c, member, is⟩)
  obtain ⟨c, inside, rfl⟩ := List.mem_map.1 member
  exact bound c inside

theorem nextNumberFound_eq {scans : List PageScan} {n : Nat}
    (is : highest (scans.flatMap (fun x => x.entries.map (fun e => numberOfEntry e.2))) = n) :
    nextNumberFound scans = min (n + 1) 4294967295 := by
  rw [nextNumberFound, highest_flatMap, is, Config.maxWord]

theorem highest_cons (n : Nat) (ns : List Nat) : highest (n :: ns) = max n (highest ns) := by
  refine highest_eq (fun k member => ?_) ?_
  · rcases List.mem_cons.1 member with rfl | member
    · exact le_max_left _ _
    · exact (highest_ge member).trans (le_max_right _ _)
  · rcases highest_reached ns with zero | member
    · exact .inr (by simp [zero])
    · rcases max_choice n (highest ns) with is | is
      · exact .inr (List.mem_cons.2 (.inl is))
      · exact .inr (List.mem_cons.2 (.inr (is.symm ▸ member)))

theorem nextSequenceFound_eq {scans : List PageScan} {n : Nat} (is : highest (scans.flatMap (fun x =>
      x.sequence.toList ++ x.entries.map (fun e => releaseSequence e.2))) = n) :
    nextSequenceFound scans = if n < 4294967295 then some (n + 1) else none := by
  have each (x : PageScan) : max (x.sequence.getD 0) (highest (x.entries.map (fun e => releaseSequence e.2)))
      = highest (x.sequence.toList ++ x.entries.map (fun e => releaseSequence e.2)) := by
    cases x.sequence with
    | none => simp
    | some m => exact (highest_cons m _).symm
  rw [nextSequenceFound, funext each, highest_flatMap, is, Config.maxWord]

end Sys2Proof.Machine
end

section
/-! The mount's RESOLVE (O50). -/

namespace Sys2Proof.Machine

/-- Settles O50: the pages by their discards and orders, the sweep by its last entry, the results by what each collects. -/
theorem mountResolves : Obligations.MountResolves := by
  refine ⟨fun scans => ⟨List.length_map _, fun i x at' => ?_, sortBy_perm _ _, keptPages_pairwise scans, ?_, ?_,
    fun n bound reached => mountEraseCount_eq bound reached⟩, fun before x => ⟨fun txn count marker => ?_, fun other => ?_⟩,
    fun before after c last => commitPageOf_last last, fun directory supplied x => ⟨?_, ?_, ?_⟩, isCandidate_iff,
    fun candidates => ⟨List.pairwise_map.2 (currentEntries_sorted candidates), ?_, fun ident x => mem_currentEntries, ?_,
      fun ident gen b delta => mem_currentBumps_entry, currentBumps_ordinals candidates, fun ident x _ => ?_⟩,
    fun closing scans => ⟨rfl, decide_eq_true_iff, marksOf_nonempty scans, fun pair => mem_carryFound, ?_, ?_, ?_, ?_⟩⟩
  · have is := discardedBy_iff scans x
    rw [afterDiscards_getElem at']
    refine ⟨fun holds discarded => ?_, fun stands => ?_⟩
    · rw [if_pos ⟨holds, is.2 discarded⟩]
    · rw [if_neg fun both => stands.elim (· both.1) (· (is.1 both.2))]
  · rw [eraseOrder_eq]
    exact (sortBy_perm _ _).map _
  · intro _ x hx y hy pendingX pendingY first
    exact eraseOrder_sublist hx hy pendingX pendingY (not_eraseBefore first)
  · exact matchingMarkers_marker marker
  · exact matchingMarkers_unmarked other
  · intro cls
    rw [resolvedRec, cls]
  · intro cls
    rw [resolvedRec, cls]
  · intro cls
    rw [resolvedRec, cls]
    rfl
  · rintro before x after ident rfl version earlier later
    exact currentEntries_last version earlier after later
  · rintro before x after ordinal ident delta gen rfl bump low high last
    exact currentBumps_last bump low high last
  · exact ⟨formEntry_ident, formEntry_gen, formEntry_loc, fun flags txn gen length => formEntry_blob,
      fun flags txn gen => formEntry_tombstone, fun flags txn gen value => formEntry_tally⟩
  · intro torn nodup is
    exact congrArg (min · 65535) (tornCount_of nodup is)
  · intro n bound reached
    exact lastCommitted_eq bound reached
  · intro n bound reached
    exact nextNumberFound_eq (highest_eq bound reached)
  · intro n bound reached
    exact nextSequenceFound_eq (highest_eq bound reached)

end Sys2Proof.Machine
end

section
/-! FORMAT (R120, R139 to R142): the pages it still has to erase, the fallback, the grants and the completions of its
operations. -/

namespace Sys2Proof.Machine

variable {s : State}

/-! ### The format's record and the page that is next -/

theorem State.mem_formatPages {f : FormatRecord} {p : PageIx} :
    p ∈ s.formatPages f ↔ (s.page p).state ≠ .retired ∧ p ∉ f.erased ∧ f.mark ≠ some p := by
  rw [State.formatPages, List.mem_filter, decide_eq_true_eq]
  exact and_iff_right (mem_allPages p)

section
variable {f : FormatRecord}

theorem State.nextFormatErase_page {p : PageIx} {rest : List PageIx} (pages : s.formatPages f = p :: rest) :
    s.nextFormatErase f = s.formatErase f (.erasing p) := by
  rw [State.nextFormatErase, pages]

theorem State.nextFormatErase_mark {m : PageIx} (pages : s.formatPages f = []) (mark : f.mark = some m)
    (stands : f.markErased = false) : s.nextFormatErase f = s.formatErase f (.erasing m) := by
  simp [State.nextFormatErase, pages, mark, stands]

theorem State.nextFormatErase_closes (pages : s.formatPages f = []) (done : f.mark = none ∨ f.markErased = true) :
    s.nextFormatErase f = s.closeErases f := by
  cases mark : f.mark with
  | none => simp [State.nextFormatErase, pages, mark]
  | some m => simp [State.nextFormatErase, pages, mark, done.resolve_left (by simp [mark])]

theorem State.nextFallback_page {p : PageIx} {rest : List PageIx} (pages : s.formatPages f = p :: rest) :
    s.nextFallback f = s.formatErase { f with mark := none } (.fallbackErase p) := by
  rw [State.nextFallback, pages]

theorem State.nextFallback_none (pages : s.formatPages f = []) : s.nextFallback f = s.nextFormatErase f := by
  rw [State.nextFallback, pages]

/-- The next erase is of a page, or the last one was. -/
theorem State.nextFormatErase_cases (s : State) (f : FormatRecord) :
    (∃ p, s.nextFormatErase f = s.formatErase f (.erasing p)) ∨ s.nextFormatErase f = s.closeErases f := by
  unfold State.nextFormatErase
  split
  · exact .inl ⟨_, rfl⟩
  · split
    · exact .inr rfl
    · exact .inl ⟨_, rfl⟩
  · exact .inr rfl

theorem State.nextFormatErase_executing (s : State) (f : FormatRecord) :
    (s.nextFormatErase f).executor.executing = s.executor.executing := by
  rcases s.nextFormatErase_cases f with ⟨p, next⟩ | next <;> rw [next] <;> rfl

theorem State.nextFallback_executing (s : State) (f : FormatRecord) :
    (s.nextFallback f).executor.executing = s.executor.executing := by
  cases pages : s.formatPages f with
  | nil => rw [State.nextFallback_none pages, State.nextFormatErase_executing]
  | cons p rest => rw [State.nextFallback_page pages]; rfl

/-- The format's record is replaced whatever it was. -/
theorem State.nextFallback_setFormat (s : State) (x : Option FormatRecord) (f : FormatRecord) :
    (s.setFormat x).nextFallback f = s.nextFallback f := by
  have same : (s.setFormat x).formatPages f = s.formatPages f := rfl
  cases pages : s.formatPages f with
  | cons p rest =>
    rw [State.nextFallback_page pages, State.nextFallback_page (same.trans pages)]
    rfl
  | nil =>
    rw [State.nextFallback_none pages, State.nextFallback_none (same.trans pages)]
    cases mark : f.mark with
    | none =>
      rw [State.nextFormatErase_closes pages (.inl mark), State.nextFormatErase_closes (same.trans pages) (.inl mark)]
      rfl
    | some m =>
      cases erased : f.markErased with
      | true =>
        rw [State.nextFormatErase_closes pages (.inr erased), State.nextFormatErase_closes (same.trans pages) (.inr erased)]
        rfl
      | false =>
        rw [State.nextFormatErase_mark pages mark erased, State.nextFormatErase_mark (same.trans pages) mark erased]
        rfl

end

/-! ### Notices and the format's record -/

theorem State.sendNotice_setFormat (s : State) (x : Option FormatRecord) (n : Frame) :
    (s.setFormat x).sendNotice n = (s.sendNotice n).setFormat x := by
  have room : (s.setFormat x).txRoom = s.txRoom := rfl
  unfold State.sendNotice
  rw [room]
  cases h : s.txRoom && s.notices.outgoing.isEmpty <;> simp [State.setFormat, State.placeFrame, h]

/-- A notice is raised whatever the format's record is, and leaves it as it is. -/
theorem State.raise_setFormat (s : State) (x : Option FormatRecord) (content : NoticeContent) :
    (s.setFormat x).raise content = (s.raise content).setFormat x := by
  cases muted : s.muted with
  | true =>
    rw [raise_muted content muted, raise_muted (s := s.setFormat x) content muted]
    rfl
  | false =>
    rw [raise_unmuted content muted, raise_unmuted (s := s.setFormat x) content muted]
    unfold State.joinNotice
    dsimp only
    rw [← State.sendNotice_setFormat]
    rfl

theorem State.sealOpenPage_setFormat (s : State) (x : Option FormatRecord) :
    (s.setFormat x).sealOpenPage = s.sealOpenPage.setFormat x := by
  have same : (s.setFormat x).openPage = s.openPage := rfl
  rw [State.sealOpenPage_eq, State.sealOpenPage_eq, same]
  rfl

/-! ### FORMAT is taken -/

/-- The record of a FORMAT that has passed its checks. -/
def FormatRecord.fresh (previous : StoreState) : FormatRecord :=
  { previous, stage := .marking, erased := [], fallback := none, mark := none, markErased := false, retried := false
    failures := 0, run := none }

/-- s with the store FORMATTING and a new format's record. -/
def State.formatBegun (s : State) : State := ({ s with store := .formatting }).setFormat (some (.fresh s.store))

theorem State.takeFormat_begins (noTxn : s.txn.state = .none) (supply : s.supply.state ≠ .cautionLong) :
    s.takeFormat [] = s.beginFormat := by
  rw [State.takeFormat, readEmpty_nil]
  exact (if_neg (by simp [noTxn])).trans (if_neg supply)

theorem State.takeFormat_open (txn : s.txn.state ≠ .none) : s.takeFormat [] = s.reply (bare .txnOpen) := by
  rw [State.takeFormat, readEmpty_nil]
  exact if_pos txn

theorem State.takeFormat_low (noTxn : s.txn.state = .none) (supply : s.supply.state = .cautionLong) :
    s.takeFormat [] = s.reply (bare .supplyLow) := by
  rw [State.takeFormat, readEmpty_nil]
  exact (if_neg (by simp [noTxn])).trans (if_pos supply)

section
variable {t : State} (stopped : s.formatBegun.stopEngine = t)
include stopped

theorem State.beginFormat_marks {p : PageIx} (usable : (t.page p).state ≠ .retired) :
    s.beginFormat = t.request .executor (some .program) := by
  have member : p ∈ t.formatPages (.fresh s.store) := State.mem_formatPages.2 ⟨usable, by simp [FormatRecord.fresh]⟩
  obtain ⟨q, rest, pages⟩ := List.exists_cons_of_ne_nil (List.ne_nil_of_mem member)
  subst stopped
  unfold State.beginFormat
  dsimp only
  unfold State.formatBegun FormatRecord.fresh at pages ⊢
  rw [pages]

theorem State.beginFormat_closes (retired : ∀ p, (t.page p).state = .retired) :
    s.beginFormat = t.closeErases (.fresh s.store) := by
  have pages : t.formatPages (.fresh s.store) = [] :=
    List.eq_nil_iff_forall_not_mem.2 fun p member => (State.mem_formatPages.1 member).1 (retired p)
  subst stopped
  unfold State.beginFormat
  dsimp only
  unfold State.formatBegun FormatRecord.fresh at pages ⊢
  rw [pages]

end

/-! ### The engine's run when a FORMAT begins (R120) -/

theorem State.stopEngine_carriesOn
    (phase : s.compaction.phase = .idle ∨ s.compaction.phase = .release ∨ s.compaction.phase = .erase) : s.stopEngine = s := by
  rcases phase with phase | phase | phase <;> rw [State.stopEngine, phase]

section
variable (phase : s.compaction.phase = .copy)
include phase

theorem State.stopEngine_stops (flying : s.flying .compaction = true) :
    s.stopEngine = { s with compaction := { s.compaction with stopping := true } } := by
  rw [State.stopEngine, phase]
  exact if_pos flying

theorem State.stopEngine_abandons (still : ¬s.flying .compaction = true) : s.stopEngine = s.abandonWalk := by
  rw [State.stopEngine, phase]
  exact if_neg still

end

/-- A walk given up retires no page, and leaves the format's record. -/
theorem State.abandonWalk_page {v : PageIx} (victim : s.compaction.victim = some v) (q : PageIx) :
    (s.abandonWalk.page q).state = (if v = q then .sealed else (s.page q).state) ∧
      s.abandonWalk.executor.format = s.executor.format := by
  obtain ⟨l, u, closed⟩ := s.leaveVictim.closeWalk_eq
  rw [State.abandonWalk, closed, State.leaveVictim_some victim]
  refine ⟨(State.faultRunIfAny_state _ s.compaction.run q).trans ?_, by cases s.compaction.run <;> rfl⟩
  rw [State.page_setPage]
  split <;> rfl

theorem State.disown_owner (s : State) (who : Requester) {flight : Flight}
    (flies : (s.disown who).array.inFlight = some flight) : flight.owner ≠ some who := by
  unfold State.disown at flies
  split at flies
  · split at flies
    · obtain rfl := Option.some.inj flies
      simp
    · next f at' other =>
      obtain rfl := Option.some.inj (at'.symm.trans flies)
      exact other
  · next at' => exact absurd (at'.symm.trans flies) (by simp)

theorem State.disown_eq (s : State) (who : Requester) :
    s.disown who = { s with array := { s.array with inFlight := (s.disown who).array.inFlight } } := by
  unfold State.disown
  split
  · split <;> rfl
  · rfl

/-- A run in SELECT ends with no demand left. -/
theorem State.stopEngine_selecting (phase : s.compaction.phase = .select) : ∃ l u, s.stopEngine = { s with
    link := l
    notices := u
    compaction := Compaction.idle
    array := { s.array with compactionRequest := none, inFlight := (s.disown .compaction).array.inFlight } } := by
  obtain ⟨l, u, ended⟩ := (s.disown .compaction).clearDemands.endRun_eq
  refine ⟨l, u, ?_⟩
  rw [State.stopEngine, phase]
  refine ended.trans ?_
  rw [s.disown_eq .compaction]
  rfl

/-! ### The grants of the format -/

theorem State.grant_format {f : FormatRecord} (noRead : s.executor.blobRead = none) (noCommit : s.executor.commit = none)
    (noIncrement : s.executor.increment = none) (format : s.executor.format = some f) :
    s.grant .executor = (s.request .executor none).grantFormat f := by
  simp [State.grant, State.grantExecutor, State.request, noRead, noCommit, noIncrement, format]

section
variable {f : FormatRecord}

theorem State.grantFormat_marks (stage : f.stage = .marking) : s.grantFormat f = s.grantMark f := by
  rw [State.grantFormat, stage]

theorem State.grantFormat_erases {p : PageIx} (stage : f.stage = .erasing p ∨ f.stage = .fallbackErase p) :
    s.grantFormat f = s.start .executor (.erase p (nextEraseCount (s.page p).eraseCount)) := by
  rcases stage with stage | stage <;> rw [State.grantFormat, stage]

/-- The mark fits the OPEN page: its run is reserved at the append point and its cell goes out. -/
theorem State.grantMark_placed {p : PageIx} {a : Nat} (opened : s.openPage = some p) (append : s.array.appendPoint = some a)
    (free : a < 128) : s.grantMark f = { s with
      executor := { s.executor with format := some { f with
        run := some { page := p, first := a, words := entryWords .formatMark [], done := 0 } } }
      array := { s.array with
        appendPoint := some (a + 1)
        inFlight := some { owner := some .executor, op := .program p a ((entryWords .formatMark []).getD 0 blankCell) } } } := by
  have cells : s.freeCells = 128 - a := by rw [State.freeCells, opened, append]
  have fits : s.fits 1 = true := (s.fits_iff 1).2 ⟨by simp [opened], by omega⟩
  have one : (entryWords .formatMark []).length = 1 := rfl
  unfold State.grantMark
  rw [if_pos fits]
  simp only [State.reserve, opened, append, Option.getD_some, one]
  rfl

section
variable (unfit : s.openPage = none ∨ s.freeCells = 0)
include unfit

theorem State.grantMark_unfit : ¬s.fits 1 = true := by
  rw [s.fits_iff]
  rintro ⟨opened, fits⟩
  rcases unfit with none | full
  · exact opened none
  · omega

theorem State.grantMark_switches (noFallback : f.fallback = none) {t : State} (made : s.pageSwitch .executor = some t) :
    s.grantMark f = t := by
  rw [State.grantMark, noFallback, made]
  exact if_neg (State.grantMark_unfit unfit)

theorem State.grantMark_fallsBack (noFallback : f.fallback = none) (notMade : s.pageSwitch .executor = none) :
    s.grantMark f = s.nextFallback f := by
  rw [State.grantMark, noFallback, notMade]
  exact if_neg (State.grantMark_unfit unfit)

theorem State.grantMark_opens {p : PageIx} (fallback : f.fallback = some p) :
    s.grantMark f = match s.array.nextSequence with
      | some n => (s.setFormat (some { f with fallback := none })).switchTo .executor p n
      | none => ((s.setFormat (some { f with fallback := none })).openFor .executor p 4294967295).lowWater := by
  rw [State.grantMark, fallback]
  refine (if_neg (State.grantMark_unfit unfit)).trans ?_
  cases next : s.array.nextSequence <;> simp only [State.setFormat, next]

end

/-! ### The page that a fallback opens -/

/-- What the open header of a fallback page leaves: the header in flight, the page OPEN, the append point after its header
cells, and no fallback page left. -/
def State.FallbackOpened (t : State) (p : PageIx) (n : Nat) : Prop :=
  t.array.inFlight = some { owner := some .executor, op := .openHeader p (openHeader n) } ∧ (t.page p).state = .opened ∧
    t.array.appendPoint = some 2 ∧ t.executor.format.map FormatRecord.fallback = some none

theorem State.openFor_page (s : State) (who : Requester) (p : PageIx) (n : Nat) :
    ((s.openFor who p n).page p).state = .opened := by
  change ((State.setPage _ p _).page p).state = _
  rw [State.page_setPage, if_pos rfl]

theorem State.openFor_fallback (n : Nat) (p : PageIx) : ((s.setFormat (some { f with fallback := none })).openFor
    .executor p n).FallbackOpened p n := by
  refine ⟨rfl, State.openFor_page _ _ _ _, rfl, ?_⟩
  rw [State.openFor_eq]
  rfl

section
variable {p : PageIx} {n : Nat} (opened : s.FallbackOpened p n) (formatting : s.store = .formatting)
include opened formatting

theorem State.FallbackOpened.lowWater : s.lowWater.FallbackOpened p n := by
  rw [State.lowWater_notReady (by simp [formatting])]
  split <;> exact opened

theorem State.FallbackOpened.spendSequence (m : Nat) :
    (s.spendSequence m).FallbackOpened p n ∧ (s.spendSequence m).store = .formatting := by
  obtain ⟨flight, page, append, fallback⟩ := opened
  unfold State.spendSequence
  split
  · exact ⟨⟨flight, page, append, fallback⟩, formatting⟩
  · simp only [State.becomeReadOnly, State.markReadOnly, formatting]
    refine ⟨⟨flight, page, append, ?_⟩, trivial⟩
    rw [Option.map_map]
    exact fallback

end

theorem State.grantMark_fallback (formatting : s.store = .formatting) (unfit : s.openPage = none ∨ s.freeCells = 0)
    {p : PageIx} (fallback : f.fallback = some p) :
    (s.grantMark f).FallbackOpened p (s.array.nextSequence.getD 4294967295) := by
  have store (n : Nat) : ((s.setFormat (some { f with fallback := none })).openFor .executor p n).store = .formatting := by
    rw [State.openFor_eq]
    exact formatting
  rw [State.grantMark_opens unfit fallback]
  cases s.array.nextSequence with
  | none => exact (State.openFor_fallback 4294967295 p).lowWater (store _)
  | some n =>
    obtain ⟨spent, still⟩ := (State.openFor_fallback (s := s) (f := f) n p).spendSequence (store n) n
    exact spent.lowWater still

theorem State.grantMark_executing (unfit : s.openPage = none ∨ s.freeCells = 0) {p : PageIx}
    (fallback : f.fallback = some p) : (s.grantMark f).executor.executing = s.executor.executing := by
  rw [State.grantMark_opens unfit fallback]
  have kept : Undisturbed s (s.setFormat (some { f with fallback := none })) := Undisturbed.refl s
  cases s.array.nextSequence with
  | none => exact ((kept.openFor _ _ _).lowWater).executing
  | some n => exact (kept.switchTo _ _ _).executing

end

/-! ### The completions of the format -/

theorem State.cellDone_format {f : FormatRecord} {p : PageIx} {cell limit : Nat} {content : CellContent}
    (noCommit : s.executor.commit = none) (noIncrement : s.executor.increment = none) (format : s.executor.format = some f)
    (outcome : ArrayOutcome) : (s.landedAt p cell content limit).cellDone (some .executor) outcome
      = (s.landedAt p cell content limit).formatCellDone f outcome := by
  simp [State.cellDone, State.landedAt, noCommit, noIncrement, format]

section
variable {f : FormatRecord} {run : Run} (inRun : f.run = some run)
include inRun

theorem State.formatCellDone_stands :
    s.formatCellDone f .ok = s.nextFormatErase { f with run := none, mark := some run.page } := by
  rw [State.formatCellDone, inRun]

theorem State.formatCellDone_again (few : f.failures + 1 < 3) : s.formatCellDone f .verifyFail
    = ((s.faultRun run).setFormat (some { f with run := none, failures := f.failures + 1 })).request
      .executor (some .program) := by
  rw [State.formatCellDone, inRun]
  exact if_pos few

/-- The third failure: the OPEN page sealed and MEDIA raised, and the FORMAT ended or the next fallback page erased. -/
theorem State.formatCellDone_exhausts (third : f.failures = 2) {t : State}
    (exhausted : ((s.faultRun run).sealOpenPage).raise (.media run.page .programRetriesExhausted) = t) :
    s.formatCellDone f .verifyFail = if f.erased.isEmpty
      then State.reply { t with store := f.previous, executor := { t.executor with format := none } } (bare .mediaFault)
      else t.nextFallback { f with run := none, failures := 0 } := by
  rw [State.formatCellDone, inRun]
  refine (if_neg (by simp [third])).trans ?_
  rw [State.sealOpenPage_setFormat, State.raise_setFormat, exhausted]
  dsimp only
  rw [State.nextFallback_setFormat]
  rfl

end

theorem State.eraseDone_format {f : FormatRecord} (format : s.executor.format = some f) (p : PageIx) (count : Nat)
    (outcome : ArrayOutcome) : s.eraseDone (some .executor) p count outcome = s.formatErased f p count outcome := by
  simp [State.eraseDone, format]

/-- An erase of the format has completed. -/
theorem exec_formatErased (running : s.restarting = none) {f : FormatRecord} (format : s.executor.format = some f)
    {p : PageIx} {count : Nat} (flight : s.array.inFlight = some { owner := some .executor, op := .erase p count })
    {outcome : ArrayOutcome} {cells : Memory} (landed : s.landed.landErase p count outcome = s.withLanded cells) {t : State}
    (erased : (s.withLanded cells).formatErased f p count outcome = t) (nothing : t.nothingToTake) :
    exec (.eraseComplete outcome) s = .next t := by
  rw [exec_eraseComplete running flight, landed, State.eraseDone_format (s := s.withLanded cells) format, erased,
    State.runExecutor_nothing nothing]

section
variable {f : FormatRecord} {p : PageIx}

theorem State.formatPageDone_erasing {q : PageIx} (stage : f.stage = .erasing q) : s.formatPageDone f p
    = s.nextFormatErase { f with markErased := f.markErased || decide (f.mark = some p) } := by
  simp only [State.formatPageDone, stage]

theorem State.formatPageDone_fallback {q : PageIx} (stage : f.stage = .fallbackErase q) (erased : p ∈ f.erased) :
    s.formatPageDone f p = (s.setFormat (some { f with
      markErased := f.markErased || decide (f.mark = some p), stage := .marking, fallback := some p })).request
        .executor (some .program) := by
  simp only [State.formatPageDone, stage, erased, if_true]

theorem State.formatPageDone_lost {q : PageIx} (stage : f.stage = .fallbackErase q) (failed : p ∉ f.erased) :
    s.formatPageDone f p = s.nextFallback { f with markErased := f.markErased || decide (f.mark = some p) } := by
  simp only [State.formatPageDone, stage, failed, if_false]

theorem State.formatErased_ok (count : Nat) : s.formatErased f p count .ok = (s.becomeErased p count).formatPageDone
    { f with retried := false, erased := f.erased.filter (fun q => q ≠ p) ++ [p] } p := rfl

theorem State.formatErased_again (first : f.retried = false) (count : Nat) : s.formatErased f p count .verifyFail
    = (s.setFormat (some { f with retried := true })).request .executor (some .erase) :=
  if_neg (by simp [first])

theorem State.formatErased_retires (second : f.retried = true) (count : Nat) : s.formatErased f p count .verifyFail
    = ((s.becomeRetired p).raise (.media p .pageRetired)).formatPageDone
      { f with retried := false, erased := f.erased.filter (fun q => q ≠ p) } p :=
  if_pos second

end

end Sys2Proof.Machine
end

section
/-! FORMAT (O37): how it begins, and how each of its operations goes on. -/

namespace Sys2Proof.Machine

/-- Settles O37: the checks and the start by the engine's phase, then each grant and each completion by the format's stage. -/
theorem formatProceeds : Obligations.FormatProceeds := by
  refine ⟨fun tag s executes => ?begins, fun f r s running formatting executing noCommit noIncrement format => ?proceeds⟩
  case begins =>
    let t : State := s.executingNow .format tag []
    have taken : exec (.format tag []) s = .next (t.takeFormat []) := exec_executed (kind := .format) rfl executes
    refine ⟨fun txn => ?txnOpen, fun noTxn low => ?supplyLow, fun noTxn supply => ?begun⟩
    case txnOpen => exact exec_replied (kind := .format) rfl executes (State.takeFormat_open (s := t) txn)
    case supplyLow => exact exec_replied (kind := .format) rfl executes (State.takeFormat_low (s := t) noTxn low)
    case begun =>
      rw [taken, State.takeFormat_begins (s := t) noTxn supply]
      intro begun begins carriedOn flying
      let u : State := t.formatBegun
      have marks {w : State} (stopped : u.stopEngine = w) {p : PageIx} (usable : (w.page p).state ≠ .retired) :=
        congrArg (fun x : State => (.next x : Host.Outcome State Fault Refusal)) (State.beginFormat_marks stopped usable)
      have flies : u.flying .compaction = true ↔ flying := State.flying_iff .compaction
      refine ⟨fun ⟨p, usable⟩ => ⟨fun carried => ?goesOn, fun copying inFlight => ?stops, fun v copying still victim => ?gaveUp,
        fun selecting => ?selected⟩, fun carried retired => ?closes⟩
      case goesOn => exact marks (State.stopEngine_carriesOn (s := u) carried) usable
      case stops => exact marks (State.stopEngine_stops (s := u) copying (flies.2 inFlight)) usable
      case gaveUp =>
        have state := fun q => State.abandonWalk_page (s := u) victim q
        have alive : (u.abandonWalk.page p).state ≠ .retired := by
          rw [(state p).1]
          split
          · simp
          · exact usable
        have begins := marks (State.stopEngine_abandons (s := u) copying (mt flies.1 still)) alive
        obtain ⟨w, same, ends⟩ := State.abandonWalk_givenUp (s := u) victim
        obtain rfl := Host.Outcome.next.inj same
        rw [begins]
        exact ⟨⟨_, rfl, ends⟩, _, rfl, rfl, (state p).2⟩
      case selected =>
        obtain ⟨l, n, stopped⟩ := State.stopEngine_selecting (s := u) selecting
        rw [marks stopped (p := p) usable]
        exact ⟨_, rfl, rfl, rfl, rfl, rfl, rfl, fun flight => u.disown_owner .compaction⟩
      case closes =>
        rw [State.beginFormat_closes (State.stopEngine_carriesOn (s := u) carried) retired]
        rfl
  case proceeds =>
    intro due asks goesOn fallsBack landed gone
    have goes (t : State) (g : FormatRecord) : goesOn (.next (t.nextFormatErase g)) t g :=
      ⟨fun p rest pages => congrArg Host.Outcome.next (State.nextFormatErase_page pages),
        fun m pages mark stands => congrArg Host.Outcome.next (State.nextFormatErase_mark pages mark stands),
        fun pages done => congrArg Host.Outcome.next (State.nextFormatErase_closes pages done)⟩
    have falls (t : State) (g : FormatRecord) : fallsBack (.next (t.nextFallback g)) t g :=
      ⟨fun q rest pages => congrArg Host.Outcome.next (State.nextFallback_page pages), fun pages => by
        rw [State.nextFallback_none pages]
        exact goes t g⟩
    have busy {t : State} (still : t.executor.executing = some r) : t.nothingToTake := .inl (by simp [still])
    let granted : State := s.request .executor none
    have grants (still : s.array.inFlight = none) (chosen : s.chooseRequester = some .executor)
        (noRead : s.executor.blobRead = none) {t : State} (grant : granted.grantFormat f = t)
        (same : t.executor.executing = some r) : exec .arbiterGrant s = .next t :=
      exec_granted running still chosen ((State.grant_format noRead noCommit noIncrement format).trans grant) (busy same)
    refine ⟨fun p a still chosen noRead stage opened append free => ?placed,
      fun still chosen noRead stage unfit => ⟨fun u noFallback made => ?switched, fun p rest noFallback noMark notMade pages =>
        ?fallsBack, fun p fallback => ?opens⟩, fun p still chosen noRead stage => ?erases,
      fun p count flight stage => ?fallbackErased, fun run w flight inRun last => ?programmed,
      fun p count flight => ?erased⟩
    case placed =>
      exact grants still chosen noRead ((State.grantFormat_marks stage).trans
        (State.grantMark_placed (s := granted) opened append free)) executing
    case switched =>
      have kept := (Undisturbed.refl granted).pageSwitch made
      exact grants still chosen noRead ((State.grantFormat_marks stage).trans
        (State.grantMark_switches (s := granted) unfit noFallback made)) (kept.executing.trans executing)
    case fallsBack =>
      have same : ({ f with mark := none } : FormatRecord) = f := by rw [← noMark]
      have next := State.nextFallback_page (s := granted) (f := f) pages
      rw [same] at next
      exact grants still chosen noRead ((State.grantFormat_marks stage).trans
        ((State.grantMark_fallsBack (s := granted) unfit noFallback notMade).trans next)) executing
    case opens =>
      exact ⟨_, grants still chosen noRead (State.grantFormat_marks stage)
        ((State.grantMark_executing (s := granted) unfit fallback).trans executing),
        State.grantMark_fallback (s := granted) formatting unfit fallback⟩
    case erases => exact grants still chosen noRead (State.grantFormat_erases stage) executing
    case fallbackErased =>
      have ok : s.landed.landErase p count .ok
          = s.withLanded ((s.array.cells.clearPage p).write (cellAddress p 0) (.word (wearHeader count))) := by
        simp only [State.landErase, State.landed, State.withLanded]
      generalize (s.array.cells.clearPage p).write (cellAddress p 0) (.word (wearHeader count)) = clear at ok
      refine ⟨_, exec_formatErased running format flight ok ((State.formatErased_ok count).trans
        (State.formatPageDone_fallback stage (by simp))) (busy executing), ?_, rfl, rfl⟩
      exact State.becomeErased_page (s.withLanded clear) p count
    case programmed =>
      intro wrote faulted
      let ended (outcome : ArrayOutcome) : State :=
        s.landedAt run.page (run.first + run.done) (landedContent w outcome) (run.first + run.done + 1)
      have completes {outcome : ArrayOutcome} {t : State} (done : (ended outcome).formatCellDone f outcome = t)
          (nothing : t.nothingToTake) : exec (.programComplete outcome) s = .next t :=
        exec_programCompleted running flight ((State.cellDone_format noCommit noIncrement format outcome).trans done) nothing
      have failed : (ended .verifyFail).faultRun run = faulted := by
        refine (State.landedAt_faultRun ..).trans ?_
        have reach : max (run.first + run.done + 1) (run.first + run.words.length) = run.first + run.done + 1 := by omega
        rw [reach]
        rfl
      refine ⟨?_, fun few => ?_, fun p third opened => ?_⟩
      · rw [completes (State.formatCellDone_stands inRun) (busy ((State.nextFormatErase_executing _ _).trans executing))]
        exact goes _ _
      · have again := State.formatCellDone_again (s := ended .verifyFail) inRun few
        rw [failed] at again
        exact completes again (busy executing)
      · intro exhausted restored
        have same : faulted.openPage = some p := by
          rw [← failed, State.faultRun_openPage, State.landedAt_openPage, opened]
        have sealing : (((ended .verifyFail).faultRun run).sealOpenPage).raise (.media run.page .programRetriesExhausted)
            = exhausted := by
          refine congrArg (State.raise · _) ?_
          rw [failed, State.sealOpenPage_eq, same]
          rfl
        have executor : exhausted.executor = s.executor := (raise_engine _ _).2.2
        have done := State.formatCellDone_exhausts (s := ended .verifyFail) inRun third sealing
        refine ⟨fun none finishes => ?_, fun some => ?_⟩
        · rw [none, executor] at done
          refine completes (done.trans ((State.reply_room (s := restored) finishes.2.1 finishes.txRoom _).trans rfl)) ?_
          exact State.nothingToTake_queue finishes.2.2.1
        · rw [if_neg (by simpa using some)] at done
          rw [completes done (busy ((State.nextFallback_executing _ _).trans
            ((congrArg Executor.executing executor).trans executing)))]
          exact falls _ _
    case erased =>
      have ok : s.landed.landErase p count .ok
          = s.withLanded ((s.array.cells.clearPage p).write (cellAddress p 0) (.word (wearHeader count))) := by
        simp only [State.landErase, State.landed, State.withLanded]
      have fail : s.landed.landErase p count .verifyFail = s.withLanded (s.array.cells.spoilPage p) := by
        simp only [State.landErase, State.landed, State.withLanded]
      generalize (s.array.cells.clearPage p).write (cellAddress p 0) (.word (wearHeader count)) = clear at ok ⊢
      generalize s.array.cells.spoilPage p = spoilt at fail ⊢
      intro markErased retired lost
      have left : ((s.withLanded spoilt).becomeRetired p).raise (.media p .pageRetired) = retired :=
        congrArg (State.raise · _) (State.becomeRetired_noCommit (s := s.withLanded spoilt) noCommit p)
      have executor : retired.executor = s.executor := (raise_engine _ _).2.2
      have retires (second : f.retried = true) := State.formatErased_retires (s := s.withLanded spoilt) (p := p) second count
      rw [left] at retires
      refine ⟨fun stage => ?_, fun stage first => ?_, fun stage second => ?_, fun stage second => ?_⟩
      · have done := (State.formatErased_ok (s := s.withLanded clear) (f := f) (p := p) count).trans
          (State.formatPageDone_erasing stage)
        rw [State.becomeErased_noCommit (s := s.withLanded clear) noCommit] at done
        rw [exec_formatErased running format flight ok done (busy ((State.nextFormatErase_executing _ _).trans executing))]
        exact goes _ _
      · exact exec_formatErased running format flight fail (State.formatErased_again first count) (busy executing)
      · have done := (retires second).trans (State.formatPageDone_erasing stage)
        rw [exec_formatErased running format flight fail done (busy ((State.nextFormatErase_executing _ _).trans
          ((congrArg Executor.executing executor).trans executing)))]
        exact goes _ _
      · have done := (retires second).trans (State.formatPageDone_lost stage (by simp))
        rw [exec_formatErased running format flight fail done (busy ((State.nextFallback_executing _ _).trans
          ((congrArg Executor.executing executor).trans executing)))]
        exact falls _ _

end Sys2Proof.Machine
end
